-- ==== Sys2Proof/Word.lean ====
section
/-! DEFINITION. The words this hardware's operations are made of: bytes and byte sequences (R8), tag codes and
tags (R48), value classes and values (R50), the mode input (R18), the dispatch slots (R57), and
the result status of a codec operation with its errors (R19, R113).
This block has no machine word of its own: its registers are lanes of 32 and 64 bits, byte sequences and numbers. -/

namespace Sys2Proof

/-- One byte, `0..255` (R8). -/
abbrev Byte := BitVec 8

/-- A byte sequence; its length is its own (R8). -/
abbrev Bytes := List Byte

/-- A raw `TAG4` descriptor element (R15, R48); codes 10 to 15 spell no tag. -/
abbrev TagCode := BitVec 4

/-- The ten field-kind tags, in the order of R48. -/
inductive Tag where
  | int8 | uint8 | int16 | uint16 | int32 | uint32 | int64 | uint64 | float32 | rawTail
  deriving DecidableEq, Repr, Inhabited

/-- The three value classes (R50). Class code 3 has no constructor (R61 (c)). -/
inductive ValueClass where
  | num | big | bytes
  deriving DecidableEq, Repr, Inhabited

/-- A value of one of the three classes (R50): a 32-bit lane, a 64-bit lane, or a byte sequence. -/
inductive Value where
  | num (w : BitVec 32)
  | big (q : BitVec 64)
  | bytes (b : Bytes)
  deriving DecidableEq, Repr, Inhabited

/-- The class of a value: the "runtime kind" `ENCODE` checks (R50, R68). -/
def Value.cls : Value → ValueClass
  | .num _ => .num
  | .big _ => .big
  | .bytes _ => .bytes

/-- The direction of a codec operation (R18): `encode` is bit 0, `decode` is bit 1. -/
inductive Mode where
  | encode | decode
  deriving DecidableEq, Repr, Inhabited

/-- The six rows of the dispatch table, in the order of their slot numbers 0 to 5 (R57). -/
inductive Slot where
  | response | debug | status | data | fft | unknown
  deriving DecidableEq, Repr, Inhabited

end Sys2Proof

namespace Sys2Proof.Machine

/-- The `info` of a `FormatError` (R113). -/
inductive FormatInfo where
  /-- descriptor and value counts disagree -/
  | count (dlen vlen : Nat)
  /-- a tag code 10 to 15 at a field -/
  | unknownTag (field : Nat) (code : TagCode)
  /-- `rawTail` at an index other than the last, in `DECODE` -/
  | rawTailNotLast (field : Nat)
  deriving DecidableEq, Repr, Inhabited

/-- The errors of a codec operation, each with its `info` (R113). -/
inductive CodecError where
  | formatError (info : FormatInfo)
  | typeMismatchError (field : Nat) (tag : Tag) (found : ValueClass)
  | bufferTooSmallError (size len : Nat)
  deriving DecidableEq, Repr, Inhabited

/-- The result status of a codec operation (R19). -/
inductive Status where
  | ok
  | error (e : CodecError)
  deriving DecidableEq, Repr, Inhabited

end Sys2Proof.Machine
end

