-- ==== Sys2Proof/Config.lean ====
section
/-! DEFINITION. What is fixed for one block: the parameters of R6, and the three free values of the model.
A free value is an opaque constant: nothing in Lean can evaluate it, so no statement can rest on what it is. -/

namespace Sys2Proof.Config

/-- `SINK_ID`, the type of a subscriber identifier (R6: OPEN, any type with decidable equality).
DESIGN CHOICE (log entry 3): the natural numbers; only equality of identifiers is ever used. -/
abbrev SinkId := Nat

/-- `TAG_BITS` (R6). -/
def tagBits : Nat := 4
/-- `NUM_BITS` (R6). -/
def numBits : Nat := 32
/-- `BIG_BITS` (R6). -/
def bigBits : Nat := 64
/-- `HDR_LEN`: bytes of the envelope header (R6, R42). -/
def hdrLen : Nat := 3
/-- `NSLOT`: rows of the dispatch table (R6, R57). -/
def nSlot : Nat := 6

/-- The OPEN capacities of R6, and the queue depth that U5 of spec/93_implementation_defined.md lists with them.
`none` is unbounded, the spec's default. State carries them, so every statement holds for every capacity
(log entry 2). -/
structure Capacities where
  /-- `DESC_MAX`, greatest descriptor length -/
  descMax : Option Nat
  /-- `BUF_MAX`, greatest byte length of a codec buffer or raw value -/
  bufMax : Option Nat
  /-- `MSG_MAX`, greatest byte length of a received or sent message -/
  msgMax : Option Nat
  /-- `SUB_MAX`, greatest number of subscribers of one slot -/
  subMax : Option Nat
  /-- the depth of `RQ` (R25 takes it unbounded; U5 lists it among the parameters) -/
  rqMax : Option Nat
  deriving DecidableEq, Repr

/-- The defaults of R6: every length is a natural number without bound. -/
def Capacities.unbounded : Capacities :=
  { descMax := none, bufMax := none, msgMax := none, subMax := none, rqMax := none }

/-- Does a length stay within a capacity? Where it does not, the operation is refused, never truncated (R6). -/
def within (cap : Option Nat) (n : Nat) : Bool :=
  match cap with
  | none => true
  | some m => decide (n ≤ m)

/-- FREE VALUE (log entry 6): what byte `k` of the `i`-th buffer an `ENCODE` creates holds before it is written.
R41: "the initial content of `BUF` cannot be observed". -/
opaque freshByte (i k : Nat) : Byte

/-- FREE VALUE (log entry 6): what slot `k` of the `i`-th operation's output slots holds before a `DECODE` writes it.
R14: each slot is written once and nothing reads a slot. -/
opaque freshSlot (i k : Nat) : Value

/-- FREE VALUE (log entry 6): what `STATUS` holds while the `i`-th operation runs, before its result is known.
R19: the status of one operation is not kept after the next one starts, and is an output of its own operation alone. -/
opaque freshStatus (i : Nat) : Machine.Status

end Sys2Proof.Config
end

