-- ==== Sys2Proof/Syntax.lean ====
section
/-! DEFINITION. The instruction set (R2): one constructor per row of spec/opcode_table.json.
The twenty micro-operations take no operand of their own: they read the slot `V[fi]` and the buffer at `off`
(R67, R83). The five requests carry their operands (R60). The five DISPATCH rows are the selectors `RECV`
applies to the type byte of `MSG` (R57); they take no operand either. -/

namespace Sys2Proof

/-- The instructions, in the order of spec/opcode_table.json. -/
inductive Instr where
  | encInt8 | encUint8 | encInt16 | encUint16 | encInt32 | encUint32 | encInt64 | encUint64
  | encFloat32 | encRawTail
  | decInt8 | decUint8 | decInt16 | decUint16 | decInt32 | decUint32 | decInt64 | decUint64
  | decFloat32 | decRawTail
  | recv (message : Bytes)
  | send (bytes : Bytes)
  | subscribe (slot : Slot) (s : Config.SinkId)
  | connected
  | disconnected
  | dispatchResponse | dispatchDebug | dispatchStatus | dispatchData | dispatchFft
  deriving DecidableEq, Repr

end Sys2Proof
end

