-- ==== Sys2Proof/WellFormed.lean ====
section
/-! DEFINITION. Which instructions are well formed. The types already leave out what R61 says cannot be formed
(request codes 5 to 7, slots above 5, value class 3); what is left to check is the message capacity of R6. -/

namespace Sys2Proof

/-- An instruction is well formed for the capacities `c` when the message it carries is at most `MSG_MAX` bytes
long (R6: an operation that would pass a finite capacity is given no meaning). -/
def Instr.wf (c : Config.Capacities) : Instr → Bool
  | .recv m => Config.within c.msgMax m.length
  | .send b => Config.within c.msgMax b.length
  | .subscribe _ _ => true
  | .connected => true
  | .disconnected => true
  | .encInt8 => true
  | .encUint8 => true
  | .encInt16 => true
  | .encUint16 => true
  | .encInt32 => true
  | .encUint32 => true
  | .encInt64 => true
  | .encUint64 => true
  | .encFloat32 => true
  | .encRawTail => true
  | .decInt8 => true
  | .decUint8 => true
  | .decInt16 => true
  | .decUint16 => true
  | .decInt32 => true
  | .decUint32 => true
  | .decInt64 => true
  | .decUint64 => true
  | .decFloat32 => true
  | .decRawTail => true
  | .dispatchResponse => true
  | .dispatchDebug => true
  | .dispatchStatus => true
  | .dispatchData => true
  | .dispatchFft => true

end Sys2Proof
end

