-- ==== Sys2Proof/Decode.lean ====
section
/-! DEFINITION. The encodings of 30_encoding.md: tag codes (R48), class codes (R50), slot numbers and `slot_of`
(R57), the micro-operation key (R59), the request codes (R60) and the packet type byte (R56); the decoder over
them, total and rejecting by name; and the encoder. -/

namespace Sys2Proof

/-! ## Tags, classes, slots -/

/-- The code of a tag: its position in the list of R48. -/
def Tag.code : Tag → TagCode
  | .int8 => 0 | .uint8 => 1 | .int16 => 2 | .uint16 => 3 | .int32 => 4
  | .uint32 => 5 | .int64 => 6 | .uint64 => 7 | .float32 => 8 | .rawTail => 9

/-- The tag a code spells; codes 10 to 15 are an "unknown tag" (R48, R61 (a)). -/
def Tag.ofCode (c : TagCode) : Option Tag :=
  match c.toNat with
  | 0 => some .int8
  | 1 => some .uint8
  | 2 => some .int16
  | 3 => some .uint16
  | 4 => some .int32
  | 5 => some .uint32
  | 6 => some .int64
  | 7 => some .uint64
  | 8 => some .float32
  | 9 => some .rawTail
  | _ => none

/-- The 2-bit class code of a value class (R50). -/
def ValueClass.code : ValueClass → BitVec 2
  | .num => 0 | .big => 1 | .bytes => 2

/-- The class a 2-bit class code names; code 3 is reserved (R50, R61 (c)). -/
def ValueClass.ofCode (c : BitVec 2) : Option ValueClass :=
  match c.toNat with
  | 0 => some .num
  | 1 => some .big
  | 2 => some .bytes
  | _ => none

/-- The `MODE` bit (R18). -/
def Mode.bit : Mode → BitVec 1
  | .encode => 0 | .decode => 1

/-- The mode a `MODE` bit selects (R18). -/
def Mode.ofBit (b : Bool) : Mode := if b then .decode else .encode

/-- The slot numbers of R57. -/
def Slot.number : Slot → BitVec 3
  | .response => 0 | .debug => 1 | .status => 2 | .data => 3 | .fft => 4 | .unknown => 5

/-- The slot a number names; numbers above 5 name none (R61 (d)). -/
def Slot.ofNumber (n : BitVec 3) : Option Slot :=
  match n.toNat with
  | 0 => some .response
  | 1 => some .debug
  | 2 => some .status
  | 3 => some .data
  | 4 => some .fft
  | 5 => some .unknown
  | _ => none

/-- `slot_of(t)` (R57): the whole byte is matched; any byte but the five codes is unknown. -/
def slotOf (t : Byte) : Slot :=
  match t.toNat with
  | 0x00 => .response
  | 0x01 => .debug
  | 0x02 => .status
  | 0x04 => .data
  | 0x08 => .fft
  | _ => .unknown

/-! ## The encoded form of an instruction -/

/-- The operands that stand beside a `PDREQ3` code (R60). The spec gives them no bits. -/
inductive ReqOperands where
  | none
  | bytes (b : Bytes)
  | subscription (slot : BitVec 3) (s : Config.SinkId)
  deriving DecidableEq, Repr

/-- One encoded instruction, in the format that holds it (R47): a `UOP5` key, a `PDREQ3` code with its operands,
or the type byte of an `ENVELOPE`. The three formats are read in three different places (`MODE` with `DESC[fi]`,
`RQ`, `MSG[0]`), so equal numbers in different formats are different instructions. -/
inductive Code where
  | uop (key : BitVec 5)
  | req (code : BitVec 3) (ops : ReqOperands)
  | ptype (t : Byte)
  deriving DecidableEq, Repr

/-- Why an encoding is rejected. -/
inductive DecodeError where
  /-- a `UOP5` key whose tag code is 10 to 15 (R59, R61 (a)) -/
  | unknownTag (code : TagCode)
  /-- request codes 5, 6, 7 (R60, R61 (c)) -/
  | reservedRequest (code : BitVec 3)
  /-- a slot number above 5 (R61 (d)) -/
  | reservedSlot (n : BitVec 3)
  /-- a request code with operands of another request -/
  | operandMismatch (code : BitVec 3)
  /-- a type byte that matches no DISPATCH row; not illegal, it selects the slot `UNKNOWN` (R57, R61 (e)) -/
  | unknownType (t : Byte)
  deriving DecidableEq, Repr

/-- The micro-operation key `{MODE, tag}`: bit 4 is `MODE`, bits 3:0 are the tag code (R59). -/
def uopKey (m : Mode) (c : TagCode) : BitVec 5 := m.bit ++ c

/-- The micro-operation of a mode and a tag (the table of R59). -/
def microOp : Mode → Tag → Instr
  | .encode, .int8 => .encInt8
  | .encode, .uint8 => .encUint8
  | .encode, .int16 => .encInt16
  | .encode, .uint16 => .encUint16
  | .encode, .int32 => .encInt32
  | .encode, .uint32 => .encUint32
  | .encode, .int64 => .encInt64
  | .encode, .uint64 => .encUint64
  | .encode, .float32 => .encFloat32
  | .encode, .rawTail => .encRawTail
  | .decode, .int8 => .decInt8
  | .decode, .uint8 => .decUint8
  | .decode, .int16 => .decInt16
  | .decode, .uint16 => .decUint16
  | .decode, .int32 => .decInt32
  | .decode, .uint32 => .decUint32
  | .decode, .int64 => .decInt64
  | .decode, .uint64 => .decUint64
  | .decode, .float32 => .decFloat32
  | .decode, .rawTail => .decRawTail

/-- Decode a micro-operation key (R59). -/
def decodeUop (k : BitVec 5) : Except DecodeError Instr :=
  match Tag.ofCode (k.extractLsb' 0 4) with
  | none => .error (.unknownTag (k.extractLsb' 0 4))
  | some t => .ok (microOp (Mode.ofBit (k.getLsbD 4)) t)

/-- Decode a request (R60). -/
def decodeReq (c : BitVec 3) (ops : ReqOperands) : Except DecodeError Instr :=
  match c.toNat, ops with
  | 0, .bytes m => .ok (.recv m)
  | 1, .bytes b => .ok (.send b)
  | 2, .subscription n s =>
    match Slot.ofNumber n with
    | some slot => .ok (.subscribe slot s)
    | none => .error (.reservedSlot n)
  | 3, .none => .ok .connected
  | 4, .none => .ok .disconnected
  | k, _ => if 5 ≤ k then .error (.reservedRequest c) else .error (.operandMismatch c)

/-- Decode the type byte of an envelope into a DISPATCH row (R56, R57). -/
def decodeType (t : Byte) : Except DecodeError Instr :=
  match slotOf t with
  | .response => .ok .dispatchResponse
  | .debug => .ok .dispatchDebug
  | .status => .ok .dispatchStatus
  | .data => .ok .dispatchData
  | .fft => .ok .dispatchFft
  | .unknown => .error (.unknownType t)

/-- The decoder: total over every encoding of the three formats. -/
def decode : Code → Except DecodeError Instr
  | .uop k => decodeUop k
  | .req c ops => decodeReq c ops
  | .ptype t => decodeType t

/-- The encoder, written from the same tables (R56, R59, R60). -/
def encode : Instr → Code
  | .encInt8 => .uop 0x00
  | .encUint8 => .uop 0x01
  | .encInt16 => .uop 0x02
  | .encUint16 => .uop 0x03
  | .encInt32 => .uop 0x04
  | .encUint32 => .uop 0x05
  | .encInt64 => .uop 0x06
  | .encUint64 => .uop 0x07
  | .encFloat32 => .uop 0x08
  | .encRawTail => .uop 0x09
  | .decInt8 => .uop 0x10
  | .decUint8 => .uop 0x11
  | .decInt16 => .uop 0x12
  | .decUint16 => .uop 0x13
  | .decInt32 => .uop 0x14
  | .decUint32 => .uop 0x15
  | .decInt64 => .uop 0x16
  | .decUint64 => .uop 0x17
  | .decFloat32 => .uop 0x18
  | .decRawTail => .uop 0x19
  | .recv m => .req 0 (.bytes m)
  | .send b => .req 1 (.bytes b)
  | .subscribe slot s => .req 2 (.subscription slot.number s)
  | .connected => .req 3 .none
  | .disconnected => .req 4 .none
  | .dispatchResponse => .ptype 0x00
  | .dispatchDebug => .ptype 0x01
  | .dispatchStatus => .ptype 0x02
  | .dispatchData => .ptype 0x04
  | .dispatchFft => .ptype 0x08

/-! ## The opcode table's words

The table's three formats all begin at bit 0 and carry no format mark, so one number is a word of up to three
rows (0x00 is `ENC.int8`, `RECV` and `DISPATCH.RESPONSE`). Log entry 12 says which row a table word is read as. -/

/-- The operands of a request all of whose operand bits are zero: an empty byte sequence, slot number 0 and
subscriber 0. -/
def zeroOperands (c : BitVec 3) : ReqOperands :=
  match c.toNat with
  | 0 => .bytes []
  | 1 => .bytes []
  | 2 => .subscription 0 0
  | _ => .none

/-- The encoded instruction a table word of `nbits` bits is read as: up to 3 bits a `PDREQ3` code, otherwise a
`UOP5` key in the low 5 bits of the first byte, whose bits 7:5 belong to no key. -/
def tableCode (nbits w : Nat) : Option Code :=
  if nbits ≤ 3 then some (.req (BitVec.ofNat 3 w) (zeroOperands (BitVec.ofNat 3 w)))
  else if (w / 32) % 8 = 0 then some (.uop (BitVec.ofNat 5 w))
  else none

/-- What the decoder reads from a word of spec/opcode_table.json. -/
def decodeTableWord (nbits w : Nat) : Option Instr :=
  match tableCode nbits w with
  | none => none
  | some c => (decode c).toOption

end Sys2Proof
end

