-- ==== Sys2Proof/Machine/State.lean ====
section
/-! DEFINITION. The state of the block (10_state.md), as plain data: the registers of `SC` (R14 to R20), the
registers of `PD` (R22 to R25), the transactions on the output ports (R26), the inputs the environment has still
to make (R27), and the capacities (R6); with the reasons a step can stop, and the state after reset (R29). -/

namespace Sys2Proof.Machine

open Sys2Proof

/-! ## Results and port transactions -/

/-- What a codec operation hands its caller: the bytes, the values, or one error (R10, R68, R84). -/
inductive CodecResult where
  | encoded (b : Bytes)
  | decoded (vals : List Value)
  | failed (e : CodecError)
  deriving DecidableEq, Repr, Inhabited

/-- What a `SEND` returns on `RES` (R105). -/
inductive SendResult where
  | ok
  | notConnectedError
  deriving DecidableEq, Repr, Inhabited

/-- One transaction on `SINK`: addressed to subscriber `sink`, carrying the slot, the raw type byte and the payload
(R103). -/
structure Delivery where
  sink : Config.SinkId
  slot : Slot
  type : Byte
  payload : Bytes
  deriving DecidableEq, Repr, Inhabited

/-- The lifecycle notifications (R108). -/
inductive LifeEvent where
  | connected | disconnected
  deriving DecidableEq, Repr, Inhabited

/-- The diagnostic events, with what each carries (R116). -/
inductive DiagEvent where
  | shortMessage (len : Nat)
  | protocolInconsistencyWarning (declared actual : Nat)
  | dropped (type : Byte) (actual : Nat)
  deriving DecidableEq, Repr, Inhabited

/-- One transaction on an output port of the block (R26), or the result of a codec operation. -/
inductive Event where
  | tout (b : Bytes)
  | res (r : SendResult)
  | sink (d : Delivery)
  | life (e : LifeEvent)
  | diag (e : DiagEvent)
  | codec (r : CodecResult)
  deriving DecidableEq, Repr, Inhabited

/-! ## Requests and inputs -/

/-- A request in `RQ`, with its operands (R25, R60). Codes 5 to 7 have no constructor (R61 (c)). -/
inductive Request where
  | recv (message : Bytes)
  | send (bytes : Bytes)
  | subscribe (slot : Slot) (s : Config.SinkId)
  | connected
  | disconnected
  deriving DecidableEq, Repr, Inhabited

/-- What arrives on `TIN`: the transport's three notifications (R26, R117). -/
inductive TransportEvent where
  | onMessage (b : Bytes)
  | onConnected
  | onDisconnected
  deriving DecidableEq, Repr, Inhabited

/-- What arrives on `REQ`: the two requests a caller or a subscriber may make (R26, R123). -/
inductive CallerRequest where
  | send (b : Bytes)
  | subscribe (slot : Slot) (s : Config.SinkId)
  deriving DecidableEq, Repr, Inhabited

/-- One move of the environment (R27), or `pd`: it is `PD`'s turn to take one request before the next move.
A list of these is one interleaving; a statement over every list speaks of every interleaving (log entry 4). -/
inductive Input where
  | tin (e : TransportEvent)
  | req (r : CallerRequest)
  | encode (desc : List TagCode) (vals : List Value)
  | decode (desc : List TagCode) (bytes : Bytes)
  | pd
  deriving DecidableEq, Repr, Inhabited

/-! ## The state -/

/-- The subscriber table `SUBTAB`, one ordered list for each of the six slots (R23). -/
structure SubTab where
  response : List Config.SinkId
  debug : List Config.SinkId
  status : List Config.SinkId
  data : List Config.SinkId
  fft : List Config.SinkId
  unknown : List Config.SinkId
  deriving DecidableEq, Repr

/-- The whole state of the block. -/
structure State where
  /-- the capacities of R6; configuration, which no step changes -/
  cap : Config.Capacities
  /-- an `SC` operation has passed its check phase and has not yet returned its result (R68, R84) -/
  busy : Bool
  /-- `MODE` (R18) -/
  mode : Mode
  /-- `DESC[0 .. n)` (R15) -/
  desc : List TagCode
  /-- the value slots `V` (R14) -/
  v : List Value
  /-- the field index `fi` (R16) -/
  fi : Nat
  /-- the byte offset `off` (R16) -/
  off : Nat
  /-- `SIZE` (R17) -/
  size : Nat
  /-- `BUF` (R20, R31) -/
  buf : Bytes
  /-- `STATUS` (R19) -/
  status : Status
  /-- the model's own counter: how many times free values have been taken for a new `BUF` or new slots and `STATUS` -/
  allocs : Nat
  /-- `CONN`: true is 1, an active connection exists (R22) -/
  conn : Bool
  /-- `SUBTAB` (R23) -/
  subtab : SubTab
  /-- `MSG`: the message of the `RECV` in progress; none when no `RECV` is (R24) -/
  msg : Option Bytes
  /-- `RQ`, oldest request first (R25) -/
  rq : List Request
  /-- the transactions on the output ports and the codec results since reset, oldest first (R26, R132) -/
  trace : List Event
  /-- the moves the environment has still to make, next one first (R27) -/
  inputs : List Input
  deriving DecidableEq, Repr

/-! ## The reasons a step can stop -/

/-- A fault: the machine is at a point the spec says is never reached. Every one is raised only in a state that no
operation of the block leads to (an obligation says so), and stopping there is safe. -/
inductive Fault where
  /-- a micro-operation at a field index that has no value slot (R14: one slot per descriptor element).
  Raised by every `ENC.<tag>` and `DEC.<tag>`. Safe. -/
  | noSlot
  /-- an `ENC.<tag>` whose slot holds a value of another class; the check phase of R68 excludes it.
  Raised by every `ENC.<tag>`. Safe. -/
  | slotClass
  /-- an access that would fall outside `BUF`: R9 leaves it undefined and R41 says it is never attempted.
  Raised by every `ENC.<tag>` and `DEC.<tag>`. Safe. -/
  | outsideBuffer
  /-- a DISPATCH selector with no message of at least 3 bytes in `MSG` (R100 needs `L >= 3`).
  Raised by every `DISPATCH.<slot>`, and by the fetch of a held empty message. Safe. -/
  | noHeader
  deriving DecidableEq, Repr

/-- A refusal: the spec gives the operation no meaning (R10). -/
inductive Refusal where
  /-- an instruction without a meaning. Raised by no instruction of this model. Safe. -/
  | notModelled (mnemonic : String)
  /-- an `ENCODE` of an integer outside the range of its 8- or 16-bit field: refused by R70.
  Raised by the start of an `ENCODE`, and by `ENC.int8`, `ENC.uint8`, `ENC.int16`, `ENC.uint16`. Safe. -/
  | valueOutOfRange (field : Nat)
  /-- a descriptor longer than a finite `DESC_MAX` (R6). Raised by the start of a codec operation. Safe. -/
  | descriptorTooLong
  /-- a codec buffer or raw value longer than a finite `BUF_MAX` (R6). Raised by the start of a codec operation.
  Safe. -/
  | bufferTooLong
  /-- a message longer than a finite `MSG_MAX` (R6). Raised by `RECV` and `SEND`. Safe. -/
  | messageTooLong
  /-- a `SUBSCRIBE` to a row that a finite `SUB_MAX` says is full (R106). Raised by `SUBSCRIBE`. Safe. -/
  | rowFull (slot : Slot)
  /-- a request that arrives at a queue that a finite queue depth says is full (U5). Raised by the arrival of a
  request. Safe. -/
  | queueFull
  /-- an encoding that R61 (c), (d) says cannot be formed. Raised by no fetch from `RQ`, whose requests are typed.
  Safe. -/
  | unformable (e : DecodeError)
  deriving DecidableEq, Repr

/-! ## Reset -/

/-- Every row of `SUBTAB` empty (R29). -/
def SubTab.empty : SubTab :=
  { response := [], debug := [], status := [], data := [], fft := [], unknown := [] }

/-- The state after reset (R29, R129): `CONN` 0, every row of `SUBTAB` empty, `RQ` empty, no request in progress,
nothing on any port. The `SC` registers are unspecified there; the model names empty and zero (DESIGN CHOICE, log
entry 5). The capacities are R6's defaults and the environment makes no move. -/
def State.reset : State :=
  { cap := Config.Capacities.unbounded
    busy := false
    mode := .encode
    desc := []
    v := []
    fi := 0
    off := 0
    size := 0
    buf := []
    status := .ok
    allocs := 0
    conn := false
    subtab := SubTab.empty
    msg := none
    rq := []
    trace := []
    inputs := [] }

end Sys2Proof.Machine
end

