-- ==== Sys2Proof/Machine/Ops.lean ====
section
/-! DEFINITION. The named operations over the state: the two memory primitives of R9, the register updates, the
port transactions, the queue, the subscriber table, and raising an error (R119) beside ending an operation. -/

namespace Sys2Proof.Machine

open Sys2Proof

/-! ## Bytes and numbers: little-endian, decided once (R35, R36) -/

/-- The unsigned integer a byte sequence stands for, lowest offset least significant (R35). -/
def leNat : Bytes → Nat
  | [] => 0
  | b :: bs => b.toNat + 256 * leNat bs

/-- The `n` bytes of the pattern `v`: byte `k` is `v[8*k+7 : 8*k]` (R36). Bits above `8*n` are not written. -/
def leBytes : Nat → Nat → Bytes
  | 0, _ => []
  | n + 1, v => BitVec.ofNat 8 v :: leBytes n (v / 256)

/-- `MemRead(off, n)`; none where R9 leaves it undefined. -/
def memRead (b : Bytes) (off n : Nat) : Option Nat :=
  if off + n ≤ b.length then some (leNat ((b.drop off).take n)) else none

/-- Replace the bytes of `b` from `off` on by `w`; none where they would not fit (R31, R41). -/
def writeBytes (b : Bytes) (off : Nat) (w : Bytes) : Option Bytes :=
  if off + w.length ≤ b.length then some (b.take off ++ w ++ b.drop (off + w.length)) else none

/-- `MemWrite(off, n, v)`; none where R9 leaves it undefined. -/
def memWrite (b : Bytes) (off n v : Nat) : Option Bytes :=
  writeBytes b off (leBytes n v)

/-! ## Free values (log entry 6) -/

/-- The unspecified content of the `i`-th new buffer of `n` bytes. -/
def freshBuf (i n : Nat) : Bytes :=
  (List.range n).map (Config.freshByte i)

/-- The unspecified content of the output slots of an operation on `n` fields. -/
def freshSlots (i n : Nat) : List Value :=
  (List.range n).map (Config.freshSlot i)

/-! ## Registers of `SC` -/

/-- The end of every micro-operation: `fi <- fi + 1`, `off <- off + w` (R16). -/
def State.advance (s : State) (w : Nat) : State := { s with fi := s.fi + 1, off := s.off + w }

/-- Replace the buffer. -/
def State.setBuf (s : State) (b : Bytes) : State := { s with buf := b }

/-- `V[i] <- x` (R9). -/
def State.setSlot (s : State) (i : Nat) (x : Value) : State := { s with v := s.v.set i x }

/-- Load every register of `SC` when the check phase has passed (R13, R68, R84): `fi` and `off` start at 0, `STATUS`
is open until the operation yields its own (R19), and free values have been taken once more. -/
def State.beginOperation (s : State) (m : Mode) (desc : List TagCode) (v : List Value) (size : Nat) (buf : Bytes) :
    State :=
  { s with busy := true, mode := m, desc := desc, v := v, fi := 0, off := 0, size := size, buf := buf,
           status := Config.freshStatus s.allocs, allocs := s.allocs + 1 }

/-- End the operation in progress, if any, with a status (R19). -/
def State.endOperation (s : State) (st : Status) : State := { s with busy := false, status := st }

/-! ## Ports, queue, table, registers of `PD` -/

/-- Put one transaction on an output port (R26). -/
def State.emit (s : State) (e : Event) : State := { s with trace := s.trace ++ [e] }

/-- `diag <Event>(info)`: one event on `DIAG`; no register changes (R120). -/
def State.diag (s : State) (e : DiagEvent) : State := s.emit (.diag e)

/-- `notify(e)`: one transaction on `LIFE` (R108). -/
def State.notify (s : State) (e : LifeEvent) : State := s.emit (.life e)

/-- `transport_send(b)`: one whole message on `TOUT`, unchanged (R105). -/
def State.transportSend (s : State) (b : Bytes) : State := s.emit (.tout b)

/-- `deliver` to each subscriber of a list, in its order (R102, R103). -/
def State.deliverAll (s : State) (subs : List Config.SinkId) (slot : Slot) (type : Byte) (payload : Bytes) : State :=
  { s with trace := s.trace ++ subs.map (fun x => .sink { sink := x, slot := slot, type := type, payload := payload }) }

/-- `CONN <- c` (R22). -/
def State.setConn (s : State) (c : Bool) : State := { s with conn := c }

/-- The row of a slot (R23). -/
def SubTab.row (t : SubTab) : Slot → List Config.SinkId
  | .response => t.response
  | .debug => t.debug
  | .status => t.status
  | .data => t.data
  | .fft => t.fft
  | .unknown => t.unknown

/-- Replace the row of a slot. -/
def SubTab.setRow (t : SubTab) : Slot → List Config.SinkId → SubTab
  | .response, l => { t with response := l }
  | .debug, l => { t with debug := l }
  | .status, l => { t with status := l }
  | .data, l => { t with data := l }
  | .fft, l => { t with fft := l }
  | .unknown, l => { t with unknown := l }

/-- `SUBTAB[slot] <- l`. -/
def State.setRow (s : State) (slot : Slot) (l : List Config.SinkId) : State :=
  { s with subtab := s.subtab.setRow slot l }

/-- `MSG <- m`: the message of a `RECV` is sampled whole (R24). -/
def State.holdMessage (s : State) (m : Bytes) : State := { s with msg := some m }

/-- The end of a `RECV`: its message is dropped (R24). -/
def State.dropMessage (s : State) : State := { s with msg := none }

/-- Replace the queue. -/
def State.setRq (s : State) (l : List Request) : State := { s with rq := l }

/-- Replace the moves the environment has still to make. -/
def State.setInputs (s : State) (l : List Input) : State := { s with inputs := l }

/-- A request enters `RQ` behind those already there (R25, R111), or is refused by a finite queue depth (U5). -/
def enqueue (s : State) (r : Request) : Host.Outcome State Fault Refusal :=
  if Config.within s.cap.rqMax (s.rq.length + 1) then .next (s.setRq (s.rq ++ [r]))
  else .refused .queueFull

/-! ## Raising an error, and ending an operation -/

/-- `raise <Error>(info)` in a codec operation (R9, R119): the operation ends at once with the error as its only
result. `STATUS` is that error and the result goes to the caller; no other register of the block is written. There
is no handler, no saved state and no vector, so there is no return from it (R121). -/
def State.raise (s : State) (e : CodecError) : State :=
  (s.endOperation (.error e)).emit (.codec (.failed e))

/-- `return ok` of a codec operation: its result is `BUF` in `ENCODE` (R68) and `V` in `DECODE` (R84). -/
def finishOperation (s : State) : State :=
  (s.endOperation .ok).emit (.codec (match s.mode with | .encode => .encoded s.buf | .decode => .decoded s.v))

/-! ## The ports, each on its own (R26) -/

/-- The transactions on `TOUT`, in order. -/
def State.tout (s : State) : List Bytes :=
  s.trace.filterMap (fun e => match e with | .tout b => some b | _ => none)

/-- The transactions on `RES`, in order. -/
def State.res (s : State) : List SendResult :=
  s.trace.filterMap (fun e => match e with | .res r => some r | _ => none)

/-- The transactions on `SINK`, in order. -/
def State.sinkPort (s : State) : List Delivery :=
  s.trace.filterMap (fun e => match e with | .sink d => some d | _ => none)

/-- The transactions on `LIFE`, in order. -/
def State.life (s : State) : List LifeEvent :=
  s.trace.filterMap (fun e => match e with | .life l => some l | _ => none)

/-- The events on `DIAG`, in order. -/
def State.diagPort (s : State) : List DiagEvent :=
  s.trace.filterMap (fun e => match e with | .diag d => some d | _ => none)

/-- The results of the codec operations, in order. -/
def State.codecResults (s : State) : List CodecResult :=
  s.trace.filterMap (fun e => match e with | .codec r => some r | _ => none)

end Sys2Proof.Machine
end

