-- ==== Sys2Proof/Machine/Operands.lean ====
section
/-! DEFINITION. The operand forms: the properties of each tag (R49), the integer a lane stands for (R51), canonical
lanes (R52), and the two shared shapes of a micro-operation, storing a field's bytes (R67) and loading a field's
value (R83). -/

namespace Sys2Proof.Machine

open Sys2Proof

/-! ## Properties of each tag (R49) -/

/-- `W(t)`: the fixed byte width; `rawTail` has none and adds 0 (R49, R85). -/
def width : Tag → Nat
  | .int8 => 1
  | .uint8 => 1
  | .int16 => 2
  | .uint16 => 2
  | .int32 => 4
  | .uint32 => 4
  | .int64 => 8
  | .uint64 => 8
  | .float32 => 4
  | .rawTail => 0

/-- `class_of(t)` (R49). -/
def classOf : Tag → ValueClass
  | .int8 => .num
  | .uint8 => .num
  | .int16 => .num
  | .uint16 => .num
  | .int32 => .num
  | .uint32 => .num
  | .int64 => .big
  | .uint64 => .big
  | .float32 => .num
  | .rawTail => .bytes

/-- The least and greatest value of an integer tag; none for `float32` and `rawTail`, which are not integers (R49). -/
def range : Tag → Option (Int × Int)
  | .int8 => some (-128, 127)
  | .uint8 => some (0, 255)
  | .int16 => some (-32768, 32767)
  | .uint16 => some (0, 65535)
  | .int32 => some (-2147483648, 2147483647)
  | .uint32 => some (0, 4294967295)
  | .int64 => some (-9223372036854775808, 9223372036854775807)
  | .uint64 => some (0, 18446744073709551615)
  | .float32 => none
  | .rawTail => none

/-- The integer a lane stands for in a field of a tag (R51); none where the field is not an integer or the class is
another. -/
def intOf : Tag → Value → Option Int
  | .int8, .num w => some w.toInt
  | .int16, .num w => some w.toInt
  | .int32, .num w => some w.toInt
  | .uint8, .num w => some w.toNat
  | .uint16, .num w => some w.toNat
  | .uint32, .num w => some w.toNat
  | .int64, .big q => some q.toInt
  | .uint64, .big q => some q.toNat
  | _, _ => none

/-- A lane is canonical for a tag when the integer it stands for lies in the tag's range (R52); where there is no
integer or no range, every lane is. -/
def canonical (t : Tag) (x : Value) : Bool :=
  match intOf t x, range t with
  | some i, some (lo, hi) => decide (lo ≤ i) && decide (i ≤ hi)
  | _, _ => true

/-- The bytes a value takes in a field: the fixed width, or the byte length of a raw value (R17, R68). -/
def fieldSize (t : Tag) (x : Value) : Nat :=
  match t, x with
  | .rawTail, .bytes b => b.length
  | t, _ => width t

/-! ## Encoding: store a field -/

/-- Write the bytes of the field at `off` and advance (R16, R67). -/
def storeField (s : State) (bs : Bytes) : Host.Outcome State Fault Refusal :=
  match writeBytes s.buf s.off bs with
  | some b => .next ((s.setBuf b).advance bs.length)
  | none => .fault .outsideBuffer

/-- The shape of an `ENC` of a `NUM` field of `n` bytes: read `V[fi]`, refuse a lane that is not canonical (R70),
write the low `8*n` bits (R69). -/
def storeNum (t : Tag) (n : Nat) (s : State) : Host.Outcome State Fault Refusal :=
  match s.v[s.fi]? with
  | some (.num w) =>
    if canonical t (.num w) then storeField s (leBytes n w.toNat) else .refused (.valueOutOfRange s.fi)
  | some (.big _) => .fault .slotClass
  | some (.bytes _) => .fault .slotClass
  | none => .fault .noSlot

/-- The shape of an `ENC` of a `BIG` field: read `V[fi]`, write all 64 bits (R69, R54). -/
def storeBig (s : State) : Host.Outcome State Fault Refusal :=
  match s.v[s.fi]? with
  | some (.big q) => storeField s (leBytes 8 q.toNat)
  | some (.num _) => .fault .slotClass
  | some (.bytes _) => .fault .slotClass
  | none => .fault .noSlot

/-- The shape of an `ENC` of a raw field: read `V[fi]`, copy its bytes (R82). -/
def storeRaw (s : State) : Host.Outcome State Fault Refusal :=
  match s.v[s.fi]? with
  | some (.bytes b) => storeField s b
  | some (.num _) => .fault .slotClass
  | some (.big _) => .fault .slotClass
  | none => .fault .noSlot

/-! ## Decoding: load a field -/

/-- Write the value read into `V[fi]` and advance past the `n` bytes it took (R14, R16). -/
def loadSlot (s : State) (n : Nat) (x : Value) : Host.Outcome State Fault Refusal :=
  if s.fi < s.v.length then .next ((s.setSlot s.fi x).advance n) else .fault .noSlot

/-- The shape of a `DEC` of `n` bytes: `r = MemRead(off, n)`, then the value `k r` goes to the slot (R83, R86). -/
def loadFixed (n : Nat) (k : Nat → Value) (s : State) : Host.Outcome State Fault Refusal :=
  match memRead s.buf s.off n with
  | some r => loadSlot s n (k r)
  | none => .fault .outsideBuffer

/-- The shape of a `DEC` of a raw field: everything from `off` to the end of `BUF` (R98). -/
def loadRaw (s : State) : Host.Outcome State Fault Refusal :=
  if s.off ≤ s.buf.length then loadSlot s (s.buf.length - s.off) (.bytes (s.buf.drop s.off))
  else .fault .outsideBuffer

end Sys2Proof.Machine
end

