-- ==== Sys2Proof/Machine/Flags.lean ====
section
/-! DEFINITION. This block has no condition codes, carry, overflow, zero, sign or predicate flags (R19): no
instruction computes a flag. What stands in their place are the numeric codes of the result status and of the
diagnostic events, which are the spec's own numbering (R113, R116). -/

namespace Sys2Proof.Machine

/-- The code of an error of a codec operation (R113). -/
def CodecError.code : CodecError → Nat
  | .formatError _ => 1
  | .typeMismatchError _ _ _ => 2
  | .bufferTooSmallError _ _ => 3

/-- The code of `STATUS` (R113): 0 is `ok`. -/
def Status.code : Status → Nat
  | .ok => 0
  | .error e => e.code

/-- The code of the result of a `SEND` (R113). -/
def SendResult.code : SendResult → Nat
  | .ok => 0
  | .notConnectedError => 4

/-- The code of a diagnostic event (R116). -/
def DiagEvent.code : DiagEvent → Nat
  | .shortMessage _ => 1
  | .protocolInconsistencyWarning _ _ => 2
  | .dropped _ _ => 3

end Sys2Proof.Machine
end

