-- ==== Sys2Proof/Machine/DecodeOps.lean ====
section
/-! DEFINITION. The ten `DEC` micro-operations (R89 to R98). -/

namespace Sys2Proof.Machine

open Sys2Proof

/-- `DEC.int8` (R89): sign-extended from bit 7. -/
def execDecInt8 (s : State) : Host.Outcome State Fault Refusal :=
  loadFixed 1 (fun r => .num ((BitVec.ofNat 8 r).signExtend 32)) s

/-- `DEC.uint8` (R90): zero-extended. -/
def execDecUint8 (s : State) : Host.Outcome State Fault Refusal :=
  loadFixed 1 (fun r => .num ((BitVec.ofNat 8 r).zeroExtend 32)) s

/-- `DEC.int16` (R91): sign-extended from bit 15. -/
def execDecInt16 (s : State) : Host.Outcome State Fault Refusal :=
  loadFixed 2 (fun r => .num ((BitVec.ofNat 16 r).signExtend 32)) s

/-- `DEC.uint16` (R92): zero-extended. -/
def execDecUint16 (s : State) : Host.Outcome State Fault Refusal :=
  loadFixed 2 (fun r => .num ((BitVec.ofNat 16 r).zeroExtend 32)) s

/-- `DEC.int32` (R93): the lane is the 32 bits read. -/
def execDecInt32 (s : State) : Host.Outcome State Fault Refusal :=
  loadFixed 4 (fun r => .num (BitVec.ofNat 32 r)) s

/-- `DEC.uint32` (R94). -/
def execDecUint32 (s : State) : Host.Outcome State Fault Refusal :=
  loadFixed 4 (fun r => .num (BitVec.ofNat 32 r)) s

/-- `DEC.int64` (R95): the lane is the 64 bits read; the sign is in the reading of R51. -/
def execDecInt64 (s : State) : Host.Outcome State Fault Refusal :=
  loadFixed 8 (fun r => .big (BitVec.ofNat 64 r)) s

/-- `DEC.uint64` (R96). -/
def execDecUint64 (s : State) : Host.Outcome State Fault Refusal :=
  loadFixed 8 (fun r => .big (BitVec.ofNat 64 r)) s

/-- `DEC.float32` (R97): the 32-bit pattern, unchanged (R53). -/
def execDecFloat32 (s : State) : Host.Outcome State Fault Refusal :=
  loadFixed 4 (fun r => .num (BitVec.ofNat 32 r)) s

/-- `DEC.rawTail` (R98): every remaining byte. -/
def execDecRawTail (s : State) : Host.Outcome State Fault Refusal := loadRaw s

end Sys2Proof.Machine
end

