-- ==== Sys2Proof/Machine/EncodeOps.lean ====
section
/-! DEFINITION. The ten `ENC` micro-operations (R73 to R82). -/

namespace Sys2Proof.Machine

open Sys2Proof

/-- `ENC.int8` (R73). -/
def execEncInt8 (s : State) : Host.Outcome State Fault Refusal := storeNum .int8 1 s

/-- `ENC.uint8` (R74). -/
def execEncUint8 (s : State) : Host.Outcome State Fault Refusal := storeNum .uint8 1 s

/-- `ENC.int16` (R75). -/
def execEncInt16 (s : State) : Host.Outcome State Fault Refusal := storeNum .int16 2 s

/-- `ENC.uint16` (R76). -/
def execEncUint16 (s : State) : Host.Outcome State Fault Refusal := storeNum .uint16 2 s

/-- `ENC.int32` (R77). -/
def execEncInt32 (s : State) : Host.Outcome State Fault Refusal := storeNum .int32 4 s

/-- `ENC.uint32` (R78). -/
def execEncUint32 (s : State) : Host.Outcome State Fault Refusal := storeNum .uint32 4 s

/-- `ENC.int64` (R79). -/
def execEncInt64 (s : State) : Host.Outcome State Fault Refusal := storeBig s

/-- `ENC.uint64` (R80): for one lane the bytes of `ENC.int64`. -/
def execEncUint64 (s : State) : Host.Outcome State Fault Refusal := storeBig s

/-- `ENC.float32` (R81): the 32-bit pattern, unchanged (R53). -/
def execEncFloat32 (s : State) : Host.Outcome State Fault Refusal := storeNum .float32 4 s

/-- `ENC.rawTail` (R82): the caller's bytes, with no length and no terminator. -/
def execEncRawTail (s : State) : Host.Outcome State Fault Refusal := storeRaw s

end Sys2Proof.Machine
end

