-- ==== Sys2Proof/Machine/Selectors.lean ====
section
/-! DEFINITION. The envelope header (R55, R100), and the five DISPATCH rows: the selectors of `RECV` step 4 (R57,
R102). Each acts on the message held in `MSG`, and ends the `RECV` it belongs to (log
entry 8). -/

namespace Sys2Proof.Machine

open Sys2Proof

/-- `type = MemRead(0, 1)` (R100). -/
def typeByte (m : Bytes) : Byte := BitVec.ofNat 8 (leNat ((m.drop 0).take 1))

/-- `declared = MemRead(1, 2)`, little-endian (R100). -/
def declaredLength (m : Bytes) : Nat := leNat ((m.drop 1).take 2)

/-- `actual = L - 3` (R101); used only where `L >= 3`. -/
def actualLength (m : Bytes) : Nat := m.length - Config.hdrLen

/-- `payload = MSG[3 .. L)` (R55, R101). -/
def payloadOf (m : Bytes) : Bytes := m.drop Config.hdrLen

/-- `RECV` step 4 for one slot (R102, R103): with no subscriber in the slot's row, `Dropped`; otherwise one delivery
to each, in registration order (decision D14; log entry 14). The message is then dropped (R24): the `RECV` has ended. -/
def dispatchTo (slot : Slot) (s : State) : Host.Outcome State Fault Refusal :=
  match s.msg with
  | none => .fault .noHeader
  | some m =>
    if m.length < Config.hdrLen then .fault .noHeader
    else
      match s.subtab.row slot with
      | [] => .next ((s.diag (.dropped (typeByte m) (actualLength m))).dropMessage)
      | subs => .next ((s.deliverAll subs slot (typeByte m) (payloadOf m)).dropMessage)

/-- `DISPATCH.RESPONSE` (R57, type byte 0x00). -/
def execDispatchResponse (s : State) : Host.Outcome State Fault Refusal := dispatchTo .response s

/-- `DISPATCH.DEBUG` (R57, type byte 0x01). -/
def execDispatchDebug (s : State) : Host.Outcome State Fault Refusal := dispatchTo .debug s

/-- `DISPATCH.STATUS` (R57, type byte 0x02). -/
def execDispatchStatus (s : State) : Host.Outcome State Fault Refusal := dispatchTo .status s

/-- `DISPATCH.DATA` (R57, type byte 0x04). -/
def execDispatchData (s : State) : Host.Outcome State Fault Refusal := dispatchTo .data s

/-- `DISPATCH.FFT` (R57, type byte 0x08). -/
def execDispatchFft (s : State) : Host.Outcome State Fault Refusal := dispatchTo .fft s

/-- A type byte that matches no DISPATCH row selects `UNKNOWN` (R57, R61 (e)); it has no row of its own in the
opcode table. -/
def dispatchUnknown (s : State) : Host.Outcome State Fault Refusal := dispatchTo .unknown s

/-- The dispatch of R102: the selector the type byte chooses. -/
def dispatchByType (t : Byte) (s : State) : Host.Outcome State Fault Refusal :=
  match slotOf t with
  | .response => execDispatchResponse s
  | .debug => execDispatchDebug s
  | .status => execDispatchStatus s
  | .data => execDispatchData s
  | .fft => execDispatchFft s
  | .unknown => dispatchUnknown s

end Sys2Proof.Machine
end

