-- ==== Sys2Proof/Machine/Requests.lean ====
section
/-! DEFINITION. The five requests of the demultiplexer (R99 to R109). None of them touches a register of `SC`
(R13), and none but `CONNECTED` and `DISCONNECTED` writes `CONN` (R22), none but `SUBSCRIBE` writes `SUBTAB` (R23). -/

namespace Sys2Proof.Machine

open Sys2Proof

/-- `RECV` step 3: warn when the declared length is not the actual one, and go on (R101). -/
def warnLength (m : Bytes) (s : State) : State :=
  if actualLength m = declaredLength m then s
  else s.diag (.protocolInconsistencyWarning (declaredLength m) (actualLength m))

/-- `RECV` as a whole (R104): sample the message; end with `ShortMessage` when it is shorter than the header (R99);
otherwise warn (R101) and dispatch (R102). It does not read `CONN`. -/
def execRecv (m : Bytes) (s : State) : Host.Outcome State Fault Refusal :=
  if Config.within s.cap.msgMax m.length then
    if m.length < Config.hdrLen then
      .next (((s.holdMessage m).diag (.shortMessage m.length)).dropMessage)
    else dispatchByType (typeByte m) (warnLength m (s.holdMessage m))
  else .refused .messageTooLong

/-- `SEND` (R105): with a connection the bytes go to `TOUT` unchanged and `RES` is `ok`; without one `RES` is
`NotConnectedError` and nothing reaches `TOUT`. -/
def execSend (b : Bytes) (s : State) : Host.Outcome State Fault Refusal :=
  if Config.within s.cap.msgMax b.length then
    if s.conn then .next ((s.transportSend b).emit (.res .ok))
    else .next (s.emit (.res .notConnectedError))
  else .refused .messageTooLong

/-- `SUBSCRIBE` (R106): append to the slot's row unless already there; a full row refuses a new
identifier (finite `SUB_MAX` only; that one already there is not refused is log entry 9). -/
def execSubscribe (slot : Slot) (x : Config.SinkId) (s : State) : Host.Outcome State Fault Refusal :=
  if x ∈ s.subtab.row slot then .next s
  else if Config.within s.cap.subMax ((s.subtab.row slot).length + 1) then
    .next (s.setRow slot (s.subtab.row slot ++ [x]))
  else .refused (.rowFull slot)

/-- `CONNECTED` (R107). -/
def execConnected (s : State) : Host.Outcome State Fault Refusal :=
  .next ((s.setConn true).notify .connected)

/-- `DISCONNECTED` (R109): subscriptions and waiting requests stay. -/
def execDisconnected (s : State) : Host.Outcome State Fault Refusal :=
  .next ((s.setConn false).notify .disconnected)

end Sys2Proof.Machine
end

