-- ==== Sys2Proof/Machine/Dispatch.lean ====
section
/-! DEFINITION. One arm per instruction, each one call of its meaning. -/

namespace Sys2Proof.Machine

open Sys2Proof

def exec (i : Instr) (s : State) : Host.Outcome State Fault Refusal :=
  match i with
  | .encInt8 => Sys2Proof.Machine.execEncInt8 s
  | .encUint8 => Sys2Proof.Machine.execEncUint8 s
  | .encInt16 => Sys2Proof.Machine.execEncInt16 s
  | .encUint16 => Sys2Proof.Machine.execEncUint16 s
  | .encInt32 => Sys2Proof.Machine.execEncInt32 s
  | .encUint32 => Sys2Proof.Machine.execEncUint32 s
  | .encInt64 => Sys2Proof.Machine.execEncInt64 s
  | .encUint64 => Sys2Proof.Machine.execEncUint64 s
  | .encFloat32 => Sys2Proof.Machine.execEncFloat32 s
  | .encRawTail => Sys2Proof.Machine.execEncRawTail s
  | .decInt8 => Sys2Proof.Machine.execDecInt8 s
  | .decUint8 => Sys2Proof.Machine.execDecUint8 s
  | .decInt16 => Sys2Proof.Machine.execDecInt16 s
  | .decUint16 => Sys2Proof.Machine.execDecUint16 s
  | .decInt32 => Sys2Proof.Machine.execDecInt32 s
  | .decUint32 => Sys2Proof.Machine.execDecUint32 s
  | .decInt64 => Sys2Proof.Machine.execDecInt64 s
  | .decUint64 => Sys2Proof.Machine.execDecUint64 s
  | .decFloat32 => Sys2Proof.Machine.execDecFloat32 s
  | .decRawTail => Sys2Proof.Machine.execDecRawTail s
  | .recv m => Sys2Proof.Machine.execRecv m s
  | .send b => Sys2Proof.Machine.execSend b s
  | .subscribe slot x => Sys2Proof.Machine.execSubscribe slot x s
  | .connected => Sys2Proof.Machine.execConnected s
  | .disconnected => Sys2Proof.Machine.execDisconnected s
  | .dispatchResponse => Sys2Proof.Machine.execDispatchResponse s
  | .dispatchDebug => Sys2Proof.Machine.execDispatchDebug s
  | .dispatchStatus => Sys2Proof.Machine.execDispatchStatus s
  | .dispatchData => Sys2Proof.Machine.execDispatchData s
  | .dispatchFft => Sys2Proof.Machine.execDispatchFft s

end Sys2Proof.Machine
end

