-- ==== Sys2Proof/Machine/Codec.lean ====
section
/-! DEFINITION. The check phases of `ENCODE` (R68, R118) and `DECODE` (R84, R118), and the start of an operation:
a failed check raises its error; a passed one loads the registers, and the micro-operations follow. -/

namespace Sys2Proof.Machine

open Sys2Proof

/-! ## ENCODE -/

/-- The field-by-field part of `ENCODE`'s check phase, from field `i` on with `size` bytes counted (R68): at each
field the unknown tag comes before the class mismatch, and the first failure is the one reported (R118). -/
def encodeScan (i : Nat) (desc : List TagCode) (vals : List Value) (size : Nat) : Except CodecError Nat :=
  match desc, vals with
  | c :: cs, x :: xs =>
    match Tag.ofCode c with
    | none => .error (.formatError (.unknownTag i c))
    | some t =>
      if x.cls = classOf t then encodeScan (i + 1) cs xs (size + fieldSize t x)
      else .error (.typeMismatchError i t x.cls)
  | _, _ => .ok size

/-- `ENCODE`'s check phase: the count first, then the fields; the answer is `SIZE` (R68). -/
def encodeCheck (desc : List TagCode) (vals : List Value) : Except CodecError Nat :=
  if desc.length = vals.length then encodeScan 0 desc vals 0
  else .error (.formatError (.count desc.length vals.length))

/-- The first field, from `i` on, whose lane is not canonical for its tag (R68, R70). -/
def firstOutOfRange (i : Nat) (desc : List TagCode) (vals : List Value) : Option Nat :=
  match desc, vals with
  | c :: cs, x :: xs =>
    match Tag.ofCode c with
    | none => firstOutOfRange (i + 1) cs xs
    | some t => if canonical t x then firstOutOfRange (i + 1) cs xs else some i
  | _, _ => none

/-- A raw value stays within `BUF_MAX` (R6). -/
def rawFits (cap : Config.Capacities) : Value → Bool
  | .bytes b => Config.within cap.bufMax b.length
  | .num _ => true
  | .big _ => true

/-- The start of an `ENCODE` (R68). Operands beyond a finite capacity are refused before anything is checked (R6, log
entry 9); a failed check raises its error; an out-of-range value is refused (R70); otherwise the registers are
loaded, with a new buffer of `SIZE` bytes. -/
def startEncode (desc : List TagCode) (vals : List Value) (s : State) : Host.Outcome State Fault Refusal :=
  if Config.within s.cap.descMax desc.length then
    if vals.all (rawFits s.cap) then
      match encodeCheck desc vals with
      | .error e => .next (s.raise e)
      | .ok size =>
        match firstOutOfRange 0 desc vals with
        | some i => .refused (.valueOutOfRange i)
        | none =>
          if Config.within s.cap.bufMax size then
            .next (s.beginOperation .encode desc vals size (freshBuf s.allocs size))
          else .refused .bufferTooLong
    else .refused .bufferTooLong
  else .refused .descriptorTooLong

/-! ## DECODE -/

/-- `DECODE`'s check of the descriptor, from field `i` on with `size` bytes counted (R84, R85): `rawTail` adds
nothing and may only be last; the first offending element is the one reported (R118). -/
def decodeScan (i : Nat) (desc : List TagCode) (size : Nat) : Except CodecError Nat :=
  match desc with
  | [] => .ok size
  | c :: cs =>
    match Tag.ofCode c with
    | none => .error (.formatError (.unknownTag i c))
    | some t =>
      if t = .rawTail ∧ cs ≠ [] then .error (.formatError (.rawTailNotLast i))
      else decodeScan (i + 1) cs (size + width t)

/-- `DECODE`'s check phase: the descriptor first, then the length; the answer is `SIZE` (R84, R85). -/
def decodeCheck (desc : List TagCode) (len : Nat) : Except CodecError Nat :=
  match decodeScan 0 desc 0 with
  | .error e => .error e
  | .ok size => if len < size then .error (.bufferTooSmallError size len) else .ok size

/-- The start of a `DECODE` (R84): a failed check raises its error; otherwise the registers are loaded, with `BUF`
the input and `n` output slots not yet written. -/
def startDecode (desc : List TagCode) (bytes : Bytes) (s : State) : Host.Outcome State Fault Refusal :=
  if Config.within s.cap.descMax desc.length then
    if Config.within s.cap.bufMax bytes.length then
      match decodeCheck desc bytes.length with
      | .error e => .next (s.raise e)
      | .ok size => .next (s.beginOperation .decode desc (freshSlots s.allocs desc.length) size bytes)
    else .refused .bufferTooLong
  else .refused .descriptorTooLong

end Sys2Proof.Machine
end

