-- ==== Sys2Proof/Machine/Fetch.lean ====
section
/-! DEFINITION. What moves next, and where its encoded instruction is read from. An operation or request in progress
goes on to its end before anything else moves, so each is one transaction to every other agent (R5, R40, R43). -/

namespace Sys2Proof.Machine

open Sys2Proof

/-- The request a transport notification becomes (R26). -/
def TransportEvent.request : TransportEvent → Request
  | .onMessage b => .recv b
  | .onConnected => .connected
  | .onDisconnected => .disconnected

/-- The request a caller makes (R26). -/
def CallerRequest.request : CallerRequest → Request
  | .send b => .send b
  | .subscribe slot x => .subscribe slot x

/-- The `PDREQ3` code of a request, with its operands (R60). -/
def Request.code : Request → Code
  | .recv m => .req 0 (.bytes m)
  | .send b => .req 1 (.bytes b)
  | .subscribe slot x => .req 2 (.subscription slot.number x)
  | .connected => .req 3 .none
  | .disconnected => .req 4 .none

/-- What the next step does: run the instruction a code decodes to, in a state; or an act that is no instruction. -/
inductive Move where
  | run (c : Code) (s : State)
  | done (o : Host.Outcome State Fault Refusal)

/-- `PD`'s turn: take the oldest request (R111), or wait when there is none (R111, R128). -/
def requestMove (s : State) : Move :=
  match s.rq with
  | [] => .done (.next s)
  | r :: rest => .run r.code (s.setRq rest)

/-- The next move of the environment: a request enters `RQ`, a codec operation starts, or `PD` has a turn (R27).
With no move left to make, `PD` goes on with its queue. -/
def inputMove (s : State) : Move :=
  match s.inputs with
  | [] => requestMove s
  | .pd :: rest => requestMove (s.setInputs rest)
  | .tin e :: rest => .done (enqueue (s.setInputs rest) e.request)
  | .req r :: rest => .done (enqueue (s.setInputs rest) r.request)
  | .encode desc vals :: rest => .done (startEncode desc vals (s.setInputs rest))
  | .decode desc bytes :: rest => .done (startDecode desc bytes (s.setInputs rest))

/-- What moves next. While an `SC` operation is in progress: the micro-operation at `fi`, whose key is
`{MODE, DESC[fi]}` (R59), or the end of the operation when `fi = n` (R16). Else, while a message is held: the
selector its type byte chooses (R57). Else the environment or `PD`. -/
def nextMove (s : State) : Move :=
  if s.busy then
    match s.desc[s.fi]? with
    | some c => .run (.uop (uopKey s.mode c)) s
    | none => .done (.next (finishOperation s))
  else
    match s.msg with
    | some [] => .done (.fault .noHeader)
    | some (t :: _) => .run (.ptype t) s
    | none => inputMove s

/-- What happens where the decoder rejects: an unknown tag raises its `FormatError` (R61 (a)), an unknown packet type
selects `UNKNOWN` (R57), and what cannot be formed is refused (R61 (c), (d)). -/
def rejected (e : DecodeError) (s : State) : Host.Outcome State Fault Refusal :=
  match e with
  | .unknownTag c => .next (s.raise (.formatError (.unknownTag s.fi c)))
  | .unknownType _ => dispatchUnknown s
  | .reservedRequest c => .refused (.unformable (.reservedRequest c))
  | .reservedSlot n => .refused (.unformable (.reservedSlot n))
  | .operandMismatch c => .refused (.unformable (.operandMismatch c))

/-! ## Placing one instruction where the next step fetches it -/

/-- A value of a class, all zero bits or no bytes. -/
def zeroValue : ValueClass → Value
  | .num => .num 0
  | .big => .big 0
  | .bytes => .bytes []

/-- The tag of a code; an unknown code is laid out like `rawTail` (no bytes), and the step rejects it. -/
def tagOrRaw (c : TagCode) : Tag := (Tag.ofCode c).getD .rawTail

/-- A one-field operation in progress at its only field, with the key's `MODE` and tag, a zero value in its slot and
a zero buffer of its width: the next step fetches exactly this key. -/
def placeUop (k : BitVec 5) (s : State) : State :=
  { s with
    busy := true
    mode := Mode.ofBit (k.getLsbD 4)
    desc := [k.extractLsb' 0 4]
    v := [zeroValue (classOf (tagOrRaw (k.extractLsb' 0 4)))]
    fi := 0
    off := 0
    size := width (tagOrRaw (k.extractLsb' 0 4))
    buf := List.replicate (width (tagOrRaw (k.extractLsb' 0 4))) 0 }

/-- The request of an instruction, for the five that are requests. -/
def requestOf : Instr → Option Request
  | .recv m => some (.recv m)
  | .send b => some (.send b)
  | .subscribe slot x => some (.subscribe slot x)
  | .connected => some .connected
  | .disconnected => some .disconnected
  | _ => none

/-- Put an encoded instruction where the next step fetches it: a key as a one-field operation, a request at the head
of `RQ` with nothing else to move first, a type byte as a held message of three bytes. -/
def place (c : Code) (s : State) : State :=
  match c with
  | .uop k => placeUop k s
  | .req code ops =>
    match (decodeReq code ops).toOption.bind requestOf with
    | some r => { s with busy := false, msg := none, inputs := [], rq := r :: s.rq }
    | none => s
  | .ptype t => { s with busy := false, msg := some [t, 0, 0] }

end Sys2Proof.Machine
end

