-- ==== Sys2Proof/Machine/Step.lean ====
section
/-! DEFINITION. One step: what moves next, and if that is an instruction, its meaning. -/

namespace Sys2Proof.Machine

open Sys2Proof

/-- One step of the block and its environment. -/
def step (s : State) : Host.Outcome State Fault Refusal :=
  match nextMove s with
  | .done o => o
  | .run c t =>
    match decode c with
    | .ok i => exec i t
    | .error e => rejected e t

/-- The state with a word of the opcode table placed where `step` fetches its next instruction (log entry 12). -/
def State.withFetchWord (s : State) (nbits w : Nat) : State :=
  match tableCode nbits w with
  | some c => place c s
  | none => s

end Sys2Proof.Machine
end

