-- ==== Sys2Proof/Machine/Transaction.lean ====
section
/-! DEFINITION. A codec operation as ONE atomic transition (R5): its result as a function of its operands alone
(R21), written from the laws of R69 and R86 and not from the micro-operations. The obligations compare the two: the
steps of `step` from the start of an operation to its end give exactly this result. Also the named descriptors of
R63 and the type mask of R58, which are names and helpers of a client, not state of the block. -/

namespace Sys2Proof.Machine

open Sys2Proof

/-- The bytes one value takes in a field: the low `8 * W` bits of its lane, least significant byte first (R69), or a
raw value's own bytes. -/
def fieldBytes (t : Tag) : Value → Bytes
  | .num w => leBytes (width t) w.toNat
  | .big q => leBytes (width t) q.toNat
  | .bytes b => b

/-- The bytes of all fields, in order, with nothing between them (R38, R41). -/
def encodedBytes : List TagCode → List Value → Bytes
  | c :: cs, x :: xs =>
    match Tag.ofCode c with
    | none => []
    | some t => fieldBytes t x ++ encodedBytes cs xs
  | _, _ => []

/-- The value of the field that starts at the first byte of `b` (R86). -/
def fieldValue (t : Tag) (b : Bytes) : Value :=
  match t with
  | .int8 => .num ((BitVec.ofNat 8 (leNat (b.take 1))).signExtend 32)
  | .uint8 => .num ((BitVec.ofNat 8 (leNat (b.take 1))).zeroExtend 32)
  | .int16 => .num ((BitVec.ofNat 16 (leNat (b.take 2))).signExtend 32)
  | .uint16 => .num ((BitVec.ofNat 16 (leNat (b.take 2))).zeroExtend 32)
  | .int32 => .num (BitVec.ofNat 32 (leNat (b.take 4)))
  | .uint32 => .num (BitVec.ofNat 32 (leNat (b.take 4)))
  | .int64 => .big (BitVec.ofNat 64 (leNat (b.take 8)))
  | .uint64 => .big (BitVec.ofNat 64 (leNat (b.take 8)))
  | .float32 => .num (BitVec.ofNat 32 (leNat (b.take 4)))
  | .rawTail => .bytes b

/-- The values of all fields, in order, each field after the bytes of the one before (R16, R38). -/
def decodedValues : List TagCode → Bytes → List Value
  | [], _ => []
  | c :: cs, b =>
    match Tag.ofCode c with
    | none => []
    | some t => fieldValue t b :: decodedValues cs (b.drop (width t))

/-- The result of an `ENCODE` with unbounded capacities; none where R70 refuses it. -/
def encodeResult (desc : List TagCode) (vals : List Value) : Option CodecResult :=
  match encodeCheck desc vals with
  | .error e => some (.failed e)
  | .ok _ => if (firstOutOfRange 0 desc vals).isSome then none else some (.encoded (encodedBytes desc vals))

/-- The result of a `DECODE` with unbounded capacities. -/
def decodeResult (desc : List TagCode) (bytes : Bytes) : CodecResult :=
  match decodeCheck desc bytes.length with
  | .error e => .failed e
  | .ok _ => .decoded (decodedValues desc bytes)

/-! ## Named descriptors (R63) -/

/-- A descriptor written with tag names (R64). -/
def descriptor (l : List Tag) : List TagCode := l.map Tag.code

/-- `ENV_HDR` -/
def envHdr : List TagCode := descriptor [.uint8, .uint16]
/-- `ENVELOPE` -/
def envelope : List TagCode := descriptor [.uint8, .uint16, .rawTail]
/-- `COMMAND` -/
def command : List TagCode := descriptor [.uint8, .uint8, .rawTail]
/-- `STATUS_CODE` -/
def statusCode : List TagCode := descriptor [.uint8]
/-- `RESPONSE_PAYLOAD` -/
def responsePayload : List TagCode := descriptor [.uint8, .rawTail]
/-- `STATE_HDR` -/
def stateHdr : List TagCode := descriptor [.uint8, .uint8, .uint8, .uint64, .uint8, .int32, .uint32, .uint8]
/-- `MEASUREMENT` -/
def measurement : List TagCode := descriptor [.uint8, .uint8, .uint8, .uint16, .uint8, .uint16, .uint8]
/-- `SPECTRUM_META` -/
def spectrumMeta : List TagCode := descriptor [.uint8, .uint8, .uint8, .uint16, .uint64, .float32, .float32]
/-- `SPECTRUM_PACKET` -/
def spectrumPacket : List TagCode := spectrumMeta ++ descriptor [.rawTail]

/-! ## Type masks (R58) -/

/-- The bitwise OR of packet type codes: a payload byte a caller builds; `PD` never interprets one (R58). -/
def typeMask (codes : List Byte) : Byte := codes.foldr (fun c m => c ||| m) 0

end Sys2Proof.Machine
end

