-- ==== Sys2Proof/Safety.lean ====
section
/-! DEFINITION. What counts as a good state: the invariant the block keeps (obligations say that every step keeps it,
that reset has it, and that no step faults from a state that has it). -/

namespace Sys2Proof.Safety

open Sys2Proof Sys2Proof.Machine

/-- The bytes taken by fields whose tags and values are given (R16, R17). -/
def fieldsSize : List TagCode → List Value → Nat
  | c :: cs, x :: xs => (match Tag.ofCode c with | some t => fieldSize t x | none => 0) + fieldsSize cs xs
  | _, _ => 0

/-- `SIZE` of a `DECODE`: the sum of the fixed widths (R17, R85). -/
def fixedSize : List TagCode → Nat
  | c :: cs => (match Tag.ofCode c with | some t => width t | none => 0) + fixedSize cs
  | [] => 0

/-- `rawTail` stands nowhere but last (R84). -/
def rawOnlyLast : List TagCode → Bool
  | c :: cs => (Tag.ofCode c != some .rawTail || cs.isEmpty) && rawOnlyLast cs
  | [] => true

/-- A value fits its field: its class is the tag's and its lane is canonical (R52, R68). -/
def fieldFits (c : TagCode) (x : Value) : Bool :=
  match Tag.ofCode c with
  | some t => decide (x.cls = classOf t) && canonical t x
  | none => false

/-- The first `k` fields all hold values that fit them. -/
def FieldsFit (desc : List TagCode) (v : List Value) (k : Nat) : Prop :=
  ∀ i c x, i < k → desc[i]? = some c → v[i]? = some x → fieldFits c x = true

/-- The `ENCODE` side of an operation in progress: every slot fits its field, and `BUF` is as long as the fields
(R41). -/
def EncodeRunning (s : State) : Prop :=
  FieldsFit s.desc s.v s.desc.length ∧ s.size = fieldsSize s.desc s.v ∧ s.buf.length = s.size

/-- The `DECODE` side: `rawTail` only last, the input long enough (R84, R85), and every slot written so far fits its
field (R86, R87 (g)). -/
def DecodeRunning (s : State) : Prop :=
  rawOnlyLast s.desc = true ∧ s.size = fixedSize s.desc ∧ s.size ≤ s.buf.length ∧ FieldsFit s.desc s.v s.fi

/-- An operation in progress (R16): the descriptor has no unknown tag, there is one slot per field, `fi` is at most
`n`, and `off` is the sum of the widths of the fields before `fi`. -/
def CodecRunning (s : State) : Prop :=
  (∀ c ∈ s.desc, (Tag.ofCode c).isSome = true) ∧ s.v.length = s.desc.length ∧ s.fi ≤ s.desc.length ∧
  s.off = fieldsSize (s.desc.take s.fi) (s.v.take s.fi) ∧
  (match s.mode with | .encode => EncodeRunning s | .decode => DecodeRunning s)

/-- The subscriber table: no row repeats an identifier or is longer than `SUB_MAX` (R23). -/
def TableOk (s : State) : Prop :=
  ∀ slot, (s.subtab.row slot).Nodup ∧ Config.within s.cap.subMax (s.subtab.row slot).length = true

/-- The invariant of the block between steps: the table is as R23 says, `RQ` is within its depth, no message is held
(R24), and an operation in progress is as R16 says. -/
structure Inv (s : State) : Prop where
  table : TableOk s
  queue : Config.within s.cap.rqMax s.rq.length = true
  noMessage : s.msg = none
  codec : s.busy = true → CodecRunning s

/-! ## Terms the claims use -/

/-- No operation and no `RECV` is in progress: the environment or `PD` moves next. -/
def Idle (s : State) : Prop := s.busy = false ∧ s.msg = none

/-- `k` steps of the block, stopping at the first fault or refusal. -/
def steps (k : Nat) (s : State) : Host.Outcome State Fault Refusal := Host.Core.run core k s

/-- The state after a micro-operation that stores the bytes `bs` at `off` (R16, R34): those bytes of `BUF`, `off` and
`fi`, and nothing else. -/
def afterStore (s : State) (bs : Bytes) : State :=
  { s with
    buf := s.buf.take s.off ++ bs ++ s.buf.drop (s.off + bs.length)
    off := s.off + bs.length
    fi := s.fi + 1 }

/-- The state after a micro-operation that takes `n` bytes and writes the value `x` to its slot (R16, R34): that slot,
`off` and `fi`, and nothing else. -/
def afterLoad (s : State) (n : Nat) (x : Value) : State :=
  { s with
    v := s.v.set s.fi x
    off := s.off + n
    fi := s.fi + 1 }

/-- What `RECV` step 3 puts on `DIAG` (R101). -/
def warningEvents (declared actual : Nat) : List Event :=
  if actual = declared then [] else [.diag (.protocolInconsistencyWarning declared actual)]

/-- What `RECV` step 4 puts on `SINK` or `DIAG` for the subscribers `subs` of a slot (R102, R103). -/
def dispatchEvents (subs : List Config.SinkId) (slot : Slot) (t : Byte) (payload : Bytes) : List Event :=
  if subs = [] then [.diag (.dropped t payload.length)]
  else subs.map (fun x => .sink { sink := x, slot := slot, type := t, payload := payload })

/-- Is the transaction a delivery to subscriber `x` (R103)? -/
def isDeliveryTo (x : Config.SinkId) : Event → Bool
  | .sink d => decide (d.sink = x)
  | _ => false

/-- The registers of `SC` are the same (R14 to R20). -/
def SameCodec (s t : State) : Prop :=
  t.busy = s.busy ∧ t.mode = s.mode ∧ t.desc = s.desc ∧ t.v = s.v ∧ t.fi = s.fi ∧ t.off = s.off ∧ t.size = s.size ∧
  t.buf = s.buf ∧ t.status = s.status ∧ t.allocs = s.allocs

/-- The registers of `PD` are the same (R22 to R25). -/
def SameDemux (s t : State) : Prop :=
  t.conn = s.conn ∧ t.subtab = s.subtab ∧ t.msg = s.msg ∧ t.rq = s.rq

/-- The micro-operations are the instructions of `SC`; all others are instructions of `PD` (R2). -/
def IsMicroOp (i : Instr) : Prop := ∃ m t, i = microOp m t

/-- The counts agree and every field before field `k` passes the checks of `ENCODE` (R68). -/
def PassBefore (desc : List TagCode) (vals : List Value) (k : Nat) : Prop :=
  desc.length = vals.length ∧
    ∀ j d y, j < k → desc[j]? = some d → vals[j]? = some y → ∃ t, Tag.ofCode d = some t ∧ y.cls = classOf t

/-- The signed integer tags (R49). -/
def signed : Tag → Bool
  | .int8 => true
  | .int16 => true
  | .int32 => true
  | .int64 => true
  | _ => false

/-- The integer a field of tag `t` holds when its bytes stand for the unsigned number `r` (R86). -/
def integerOf (t : Tag) (r : Nat) : Int :=
  if signed t = true ∧ 2 ^ (8 * width t - 1) ≤ r then (r : Int) - 2 ^ (8 * width t) else r

end Sys2Proof.Safety
end

