-- ==== Sys2Proof/Certificates/Slice0/Obligations.lean ====
section
/-! DEFINITION. The statements for the provers. Each docstring names the rules of spec/ it formalises. -/

open Sys2Proof Sys2Proof.Machine Sys2Proof.Safety

/-! ## Reset -/

/-- R29: what reset leaves in the state the rule gives a value for. What the spec decides here (D15) is taken as the
rule: log entry 14. -/
def Obligations.ResetState : Prop :=
  State.reset.conn = false ∧ (∀ slot, State.reset.subtab.row slot = []) ∧ State.reset.rq = [] ∧
  State.reset.msg = none ∧ State.reset.trace = []

/-! ## Encodings -/

/-- R59: the twenty keys, where `MODE` and the tag stand in a key, the keys of no tag, and where the two parts of a
key come from while an operation is in progress. What the spec decides here (D2 and D3) is taken as the rule: log
entry 14. -/
def Obligations.MicroOpKeysDecode : Prop :=
  decode (.uop 0x00) = .ok .encInt8 ∧ decode (.uop 0x01) = .ok .encUint8 ∧ decode (.uop 0x02) = .ok .encInt16 ∧
  decode (.uop 0x03) = .ok .encUint16 ∧ decode (.uop 0x04) = .ok .encInt32 ∧ decode (.uop 0x05) = .ok .encUint32 ∧
  decode (.uop 0x06) = .ok .encInt64 ∧ decode (.uop 0x07) = .ok .encUint64 ∧ decode (.uop 0x08) = .ok .encFloat32 ∧
  decode (.uop 0x09) = .ok .encRawTail ∧
  decode (.uop 0x10) = .ok .decInt8 ∧ decode (.uop 0x11) = .ok .decUint8 ∧ decode (.uop 0x12) = .ok .decInt16 ∧
  decode (.uop 0x13) = .ok .decUint16 ∧ decode (.uop 0x14) = .ok .decInt32 ∧ decode (.uop 0x15) = .ok .decUint32 ∧
  decode (.uop 0x16) = .ok .decInt64 ∧ decode (.uop 0x17) = .ok .decUint64 ∧ decode (.uop 0x18) = .ok .decFloat32 ∧
  decode (.uop 0x19) = .ok .decRawTail ∧
  (∀ c : TagCode, (uopKey .encode c).toNat = c.toNat ∧ (uopKey .decode c).toNat = 16 + c.toNat) ∧
  (∀ (m : Mode) (c : TagCode), 10 ≤ c.toNat → decode (.uop (uopKey m c)) = .error (.unknownTag c)) ∧
  (∀ (s : State) (c : TagCode), s.busy = true → s.desc[s.fi]? = some c → nextMove s = .run (.uop (uopKey s.mode c)) s)

/-- R60: the five request codes with their operands, and the reserved ones. What the spec decides here (D19) is taken
as the rule: log entry 14. Operands typed and without bits are log entry 20. -/
def Obligations.RequestCodesDecode : Prop :=
  (∀ m, decode (.req 0 (.bytes m)) = .ok (.recv m)) ∧
  (∀ b, decode (.req 1 (.bytes b)) = .ok (.send b)) ∧
  (∀ slot x, decode (.req 2 (.subscription slot.number x)) = .ok (.subscribe slot x)) ∧
  decode (.req 3 .none) = .ok .connected ∧
  decode (.req 4 .none) = .ok .disconnected ∧
  (∀ (c : BitVec 3) (ops : ReqOperands), 5 ≤ c.toNat → decode (.req c ops) = .error (.reservedRequest c))

/-- R57: `slot_of` on the whole byte, the slot numbers, and the five DISPATCH rows. What the spec decides here (D13)
is taken as the rule: log entry 14. -/
def Obligations.TypeBytesSelectSlots : Prop :=
  (slotOf 0x00 = .response ∧ slotOf 0x01 = .debug ∧ slotOf 0x02 = .status ∧ slotOf 0x04 = .data ∧ slotOf 0x08 = .fft) ∧
  (∀ t : Byte, t ≠ 0x00 → t ≠ 0x01 → t ≠ 0x02 → t ≠ 0x04 → t ≠ 0x08 →
    slotOf t = .unknown ∧ decode (.ptype t) = .error (.unknownType t)) ∧
  (Slot.response.number = 0 ∧ Slot.number .debug = 1 ∧ Slot.status.number = 2 ∧ Slot.data.number = 3 ∧
    Slot.fft.number = 4 ∧ Slot.unknown.number = 5) ∧
  (decode (.ptype 0x00) = .ok .dispatchResponse ∧ decode (.ptype 0x01) = .ok .dispatchDebug ∧
    decode (.ptype 0x02) = .ok .dispatchStatus ∧ decode (.ptype 0x04) = .ok .dispatchData ∧
    decode (.ptype 0x08) = .ok .dispatchFft)

/-- Decoding an encoded instruction gives it back, with every operand at every value (R57, R59, R60). The numbers are
the spec's decisions D3, D13 and D19 (log entry 14); operands of requests typed and without bits are log entry 20. -/
def Obligations.DecodeOfEncode : Prop := ∀ i : Instr, decode (encode i) = .ok i

/-! ## Bytes and lanes -/

/-- R36: a write stores byte `k` of the pattern at `off + k` and nothing else, and a read after it gives the
pattern. -/
def Obligations.ReadAfterWriteIsLittleEndian : Prop :=
  ∀ (b : Bytes) (off n v : Nat), off + n ≤ b.length → v < 256 ^ n →
    ∃ b', memWrite b off n v = some b' ∧ b'.length = b.length ∧
      (∀ k, k < n → b'[off + k]? = some (BitVec.ofNat 8 (v / 2 ^ (8 * k)))) ∧
      (∀ a, a < off ∨ off + n ≤ a → b'[a]? = b[a]?) ∧
      memRead b' off n = some v

/-- R52: the bit forms of a canonical lane, tag by tag, and `DECODE` produces only canonical lanes. The int8 and int16
forms, and the signed reading of the narrow fields that DEC puts into a lane, rest on two's complement there, which is
presumed (G1, log entry 15). -/
def Obligations.CanonicalLanes : Prop :=
  (∀ w : BitVec 32,
    (canonical .int8 (.num w) = true ↔ w = (w.extractLsb' 0 8).signExtend 32) ∧
    (canonical .uint8 (.num w) = true ↔ w.extractLsb' 8 24 = 0) ∧
    (canonical .int16 (.num w) = true ↔ w = (w.extractLsb' 0 16).signExtend 32) ∧
    (canonical .uint16 (.num w) = true ↔ w.extractLsb' 16 16 = 0) ∧
    canonical .int32 (.num w) = true ∧ canonical .uint32 (.num w) = true ∧ canonical .float32 (.num w) = true) ∧
  (∀ q : BitVec 64, canonical .int64 (.big q) = true ∧ canonical .uint64 (.big q) = true) ∧
  (∀ (t : Tag) (s u : State) (x : Value), exec (microOp .decode t) s = .next u → u.v[s.fi]? = some x →
    x.cls = classOf t ∧ canonical t x = true)

/-- R69: the pattern an integer `ENC` writes is the two's-complement encoding of the integer its lane stands for.
That `int8`, `int16` and `int32` are two's complement is presumed (G1, log entry 15). -/
def Obligations.EncodedPatternIsTwosComplement : Prop :=
  ∀ (t : Tag) (s u : State) (x : Value) (i : Int), (range t).isSome = true → s.v[s.fi]? = some x → intOf t x = some i →
    exec (microOp .encode t) s = .next u →
    u.off = s.off + width t ∧
    ∃ r, memRead u.buf s.off (width t) = some r ∧ (r : Int) = if 0 ≤ i then i else i + 2 ^ (8 * width t)

/-- R86: the integer an integer `DEC` reads: the unsigned number, less `2^N` when the tag is signed and the sign bit
is set. It completes wherever the field lies in `BUF` and has a slot. That `int8`, `int16` and `int32` are two's
complement is presumed (G1, log entry 15). -/
def Obligations.DecodedIntegerIsTwosComplement : Prop :=
  ∀ (t : Tag) (s : State) (r : Nat), (range t).isSome = true → memRead s.buf s.off (width t) = some r →
    s.fi < s.v.length →
    ∃ u x, exec (microOp .decode t) s = .next u ∧ u = afterLoad s (width t) x ∧ intOf t x = some (integerOf t r)

/-! ## The ENC micro-operations -/

/-- R73, R74: the one-byte fields and their keys. A canonical lane's low byte is written; any other lane is refused.
That the micro-operation run by itself refuses it is deduced from R70 and D6, which refuse the `ENCODE` (log entry 11);
the signed range is presumed (G1, log entry 15). -/
def Obligations.EncodeOneByteFields : Prop :=
  decode (.uop 0x00) = .ok .encInt8 ∧ decode (.uop 0x01) = .ok .encUint8 ∧
  (∀ (s : State) (w : BitVec 32), s.v[s.fi]? = some (.num w) →
    ((-128 ≤ w.toInt ∧ w.toInt ≤ 127) → s.off + 1 ≤ s.buf.length →
      exec .encInt8 s = .next (afterStore s [w.extractLsb' 0 8])) ∧
    (¬ (-128 ≤ w.toInt ∧ w.toInt ≤ 127) → exec .encInt8 s = .refused (.valueOutOfRange s.fi)) ∧
    (w.toNat ≤ 255 → s.off + 1 ≤ s.buf.length → exec .encUint8 s = .next (afterStore s [w.extractLsb' 0 8])) ∧
    (255 < w.toNat → exec .encUint8 s = .refused (.valueOutOfRange s.fi)))

/-- R75, R76: the two-byte fields and their keys; low byte first. That the micro-operation run by itself refuses a lane
out of range is deduced from R70 and D6, which refuse the `ENCODE` (log entry 11); the signed range is presumed (G1, log
entry 15). -/
def Obligations.EncodeTwoByteFields : Prop :=
  decode (.uop 0x02) = .ok .encInt16 ∧ decode (.uop 0x03) = .ok .encUint16 ∧
  (∀ (s : State) (w : BitVec 32), s.v[s.fi]? = some (.num w) →
    ((-32768 ≤ w.toInt ∧ w.toInt ≤ 32767) → s.off + 2 ≤ s.buf.length →
      exec .encInt16 s = .next (afterStore s [w.extractLsb' 0 8, w.extractLsb' 8 8])) ∧
    (¬ (-32768 ≤ w.toInt ∧ w.toInt ≤ 32767) → exec .encInt16 s = .refused (.valueOutOfRange s.fi)) ∧
    (w.toNat ≤ 65535 → s.off + 2 ≤ s.buf.length →
      exec .encUint16 s = .next (afterStore s [w.extractLsb' 0 8, w.extractLsb' 8 8])) ∧
    (65535 < w.toNat → exec .encUint16 s = .refused (.valueOutOfRange s.fi)))

/-- R77, R78: the four-byte integer fields and their keys. They write the whole lane, low byte first, whatever it is. -/
def Obligations.EncodeFourByteFields : Prop :=
  decode (.uop 0x04) = .ok .encInt32 ∧ decode (.uop 0x05) = .ok .encUint32 ∧
  (∀ (s : State) (w : BitVec 32), s.v[s.fi]? = some (.num w) → s.off + 4 ≤ s.buf.length →
    exec .encInt32 s = .next (afterStore s
      [w.extractLsb' 0 8, w.extractLsb' 8 8, w.extractLsb' 16 8, w.extractLsb' 24 8]) ∧
    exec .encUint32 s = .next (afterStore s
      [w.extractLsb' 0 8, w.extractLsb' 8 8, w.extractLsb' 16 8, w.extractLsb' 24 8]))

/-- R81 (decision D7): the float field and its key. The 32-bit pattern is written unchanged, low byte first. What the
spec decides here (D7) is taken as the rule: log entry 14. -/
def Obligations.EncodeFloat32Field : Prop :=
  decode (.uop 0x08) = .ok .encFloat32 ∧
  (∀ (s : State) (w : BitVec 32), s.v[s.fi]? = some (.num w) → s.off + 4 ≤ s.buf.length →
    exec .encFloat32 s = .next (afterStore s
      [w.extractLsb' 0 8, w.extractLsb' 8 8, w.extractLsb' 16 8, w.extractLsb' 24 8]))

/-- R79, R80: the eight-byte fields and their keys. They write all 64 bits, low byte first; a `NUM` value in a
64-bit field, wherever it stands after fields that pass, is a `TypeMismatchError` (R68, R138). That this error is the
one reported, whatever stands at later fields, is R118 by decision D8 (U3), and what it carries is R113 by decision D12:
log entry 14. -/
def Obligations.EncodeEightByteFields : Prop :=
  decode (.uop 0x06) = .ok .encInt64 ∧ decode (.uop 0x07) = .ok .encUint64 ∧
  (∀ (desc : List TagCode) (vals : List Value) (k : Nat) (w : BitVec 32), PassBefore desc vals k →
    vals[k]? = some (.num w) →
    (desc[k]? = some Tag.int64.code → encodeCheck desc vals = .error (.typeMismatchError k .int64 .num)) ∧
    (desc[k]? = some Tag.uint64.code → encodeCheck desc vals = .error (.typeMismatchError k .uint64 .num))) ∧
  (∀ (s : State) (q : BitVec 64), s.v[s.fi]? = some (.big q) → s.off + 8 ≤ s.buf.length →
    exec .encInt64 s = .next (afterStore s
      [q.extractLsb' 0 8, q.extractLsb' 8 8, q.extractLsb' 16 8, q.extractLsb' 24 8,
       q.extractLsb' 32 8, q.extractLsb' 40 8, q.extractLsb' 48 8, q.extractLsb' 56 8]) ∧
    exec .encUint64 s = .next (afterStore s
      [q.extractLsb' 0 8, q.extractLsb' 8 8, q.extractLsb' 16 8, q.extractLsb' 24 8,
       q.extractLsb' 32 8, q.extractLsb' 40 8, q.extractLsb' 48 8, q.extractLsb' 56 8]))

/-- R82: the raw field and its key. It copies its bytes, with no length and no terminator; an empty one only advances
`fi`; a value of another class in it, and a `BYTES` value in any other field, wherever that field stands after fields
that pass, are a `TypeMismatchError` (R68). That this error is the one reported, whatever stands at later fields, is R118
by decision D8 (U3), and what it carries is R113 by decision D12: log entry 14. -/
def Obligations.EncodeRawField : Prop :=
  decode (.uop 0x09) = .ok .encRawTail ∧
  (∀ (desc : List TagCode) (vals : List Value) (k : Nat), PassBefore desc vals k →
    (∀ x, desc[k]? = some Tag.rawTail.code → vals[k]? = some x → x.cls ≠ .bytes →
      encodeCheck desc vals = .error (.typeMismatchError k .rawTail x.cls)) ∧
    (∀ (t : Tag) (b : Bytes), desc[k]? = some t.code → vals[k]? = some (.bytes b) → t ≠ .rawTail →
      encodeCheck desc vals = .error (.typeMismatchError k t .bytes))) ∧
  (∀ (s : State) (b : Bytes), s.v[s.fi]? = some (.bytes b) → s.off + b.length ≤ s.buf.length →
    exec .encRawTail s = .next (afterStore s b) ∧
    (b = [] → exec .encRawTail s = .next { s with fi := s.fi + 1 }))

/-- The frame of every `ENC.<tag>` (R34): `BUF` changes only in the bytes of the field at `off`; `off` and `fi`
advance past it; no other register of `SC`, no register of `PD` and no port changes. -/
def Obligations.EncodeFrame : Prop :=
  ∀ (tag : Tag) (s t : State) (x : Value), s.v[s.fi]? = some x → exec (microOp .encode tag) s = .next t →
    (∀ a, a < s.off ∨ s.off + fieldSize tag x ≤ a → t.buf[a]? = s.buf[a]?) ∧ t.buf.length = s.buf.length ∧
    t.off = s.off + fieldSize tag x ∧ t.fi = s.fi + 1 ∧
    t.busy = s.busy ∧ t.mode = s.mode ∧ t.desc = s.desc ∧ t.v = s.v ∧ t.size = s.size ∧ t.status = s.status ∧
    t.allocs = s.allocs ∧ SameDemux s t ∧ t.trace = s.trace ∧ t.inputs = s.inputs ∧ t.cap = s.cap

/-! ## The DEC micro-operations -/

/-- R89, R90: the one-byte fields, their keys, and the integer each lane stands for. The sign reading of `int8` is
presumed (G1, log entry 15). -/
def Obligations.DecodeOneByteFields : Prop :=
  decode (.uop 0x10) = .ok .decInt8 ∧ decode (.uop 0x11) = .ok .decUint8 ∧
  (∀ b0 : Byte, intOf .int8 (.num (b0.signExtend 32)) = some (integerOf .int8 b0.toNat) ∧
    intOf .uint8 (.num (b0.zeroExtend 32)) = some (b0.toNat : Int)) ∧
  (∀ (s : State) (b0 : Byte) (rest : Bytes), s.buf.drop s.off = b0 :: rest → s.fi < s.v.length →
    exec .decInt8 s = .next (afterLoad s 1 (.num (b0.signExtend 32))) ∧
    exec .decUint8 s = .next (afterLoad s 1 (.num (b0.zeroExtend 32))))

/-- R91, R92: the two-byte fields, their keys, and the integer each lane stands for; the byte at the lower offset is
least significant. The sign reading of `int16` is presumed (G1, log entry 15). -/
def Obligations.DecodeTwoByteFields : Prop :=
  decode (.uop 0x12) = .ok .decInt16 ∧ decode (.uop 0x13) = .ok .decUint16 ∧
  (∀ b : BitVec 16, intOf .int16 (.num (b.signExtend 32)) = some (integerOf .int16 b.toNat) ∧
    intOf .uint16 (.num (b.zeroExtend 32)) = some (b.toNat : Int)) ∧
  (∀ (s : State) (b0 b1 : Byte) (rest : Bytes), s.buf.drop s.off = b0 :: b1 :: rest → s.fi < s.v.length →
    exec .decInt16 s = .next (afterLoad s 2 (.num ((b1 ++ b0).signExtend 32))) ∧
    exec .decUint16 s = .next (afterLoad s 2 (.num ((b1 ++ b0).zeroExtend 32))))

/-- R93, R94: the four-byte integer fields, their keys, and the integer each lane stands for; the lane is the 32 bits
read. The sign reading of `int32` is presumed (G1, log entry 15). -/
def Obligations.DecodeFourByteFields : Prop :=
  decode (.uop 0x14) = .ok .decInt32 ∧ decode (.uop 0x15) = .ok .decUint32 ∧
  (∀ w : BitVec 32, intOf .int32 (.num w) = some (integerOf .int32 w.toNat) ∧
    intOf .uint32 (.num w) = some (w.toNat : Int)) ∧
  (∀ (s : State) (b0 b1 b2 b3 : Byte) (rest : Bytes), s.buf.drop s.off = b0 :: b1 :: b2 :: b3 :: rest →
    s.fi < s.v.length →
    exec .decInt32 s = .next (afterLoad s 4 (.num (b3 ++ b2 ++ b1 ++ b0))) ∧
    exec .decUint32 s = .next (afterLoad s 4 (.num (b3 ++ b2 ++ b1 ++ b0))))

/-- R97 (decision D7): the float field and its key. The lane is the 32-bit pattern read, unchanged. What the spec
decides here (D7) is taken as the rule: log entry 14. -/
def Obligations.DecodeFloat32Field : Prop :=
  decode (.uop 0x18) = .ok .decFloat32 ∧
  (∀ (s : State) (b0 b1 b2 b3 : Byte) (rest : Bytes), s.buf.drop s.off = b0 :: b1 :: b2 :: b3 :: rest →
    s.fi < s.v.length → exec .decFloat32 s = .next (afterLoad s 4 (.num (b3 ++ b2 ++ b1 ++ b0))))

/-- R95, R96: the eight-byte fields, their keys, and the integer each lane stands for; the lane is the 64 bits read. -/
def Obligations.DecodeEightByteFields : Prop :=
  decode (.uop 0x16) = .ok .decInt64 ∧ decode (.uop 0x17) = .ok .decUint64 ∧
  (∀ q : BitVec 64, intOf .int64 (.big q) = some (integerOf .int64 q.toNat) ∧
    intOf .uint64 (.big q) = some (q.toNat : Int)) ∧
  (∀ (s : State) (b0 b1 b2 b3 b4 b5 b6 b7 : Byte) (rest : Bytes),
    s.buf.drop s.off = b0 :: b1 :: b2 :: b3 :: b4 :: b5 :: b6 :: b7 :: rest → s.fi < s.v.length →
    exec .decInt64 s = .next (afterLoad s 8 (.big (b7 ++ b6 ++ b5 ++ b4 ++ b3 ++ b2 ++ b1 ++ b0))) ∧
    exec .decUint64 s = .next (afterLoad s 8 (.big (b7 ++ b6 ++ b5 ++ b4 ++ b3 ++ b2 ++ b1 ++ b0))))

/-- R98: the raw field and its key. It takes every remaining byte, which may be none. -/
def Obligations.DecodeRawField : Prop :=
  decode (.uop 0x19) = .ok .decRawTail ∧
  (∀ (s : State) (pre tail : Bytes), s.buf = pre ++ tail → s.off = pre.length → s.fi < s.v.length →
    exec .decRawTail s = .next (afterLoad s tail.length (.bytes tail)))

/-- The frame of every `DEC.<tag>` (R34): one slot is written, `off` and `fi` advance; every byte of `BUF`, every
other slot, the other registers of `SC`, the registers of `PD` and the ports are unchanged. -/
def Obligations.DecodeFrame : Prop :=
  ∀ (tag : Tag) (s t : State), exec (microOp .decode tag) s = .next t →
    t.buf = s.buf ∧ t.v.length = s.v.length ∧ (∀ j, j ≠ s.fi → t.v[j]? = s.v[j]?) ∧ t.fi = s.fi + 1 ∧
    t.off = (if tag = .rawTail then s.buf.length else s.off + width tag) ∧ t.off ≤ s.buf.length ∧
    t.busy = s.busy ∧ t.mode = s.mode ∧ t.desc = s.desc ∧ t.size = s.size ∧ t.status = s.status ∧
    t.allocs = s.allocs ∧ SameDemux s t ∧ t.trace = s.trace ∧ t.inputs = s.inputs ∧ t.cap = s.cap

/-! ## The requests and selectors of the demultiplexer -/

/-- R104 (with R99 to R103): `RECV` as a whole, for a message of fewer than 3 bytes and for one with a header. That
deliveries follow the row's order, registration order, is the spec's decision D14, which R102 and U4 let a model leave
open: log entry 14 (DEDUCED, unsafe). -/
def Obligations.RecvAsAWhole : Prop :=
  (∀ (s : State) (m : Bytes), Config.within s.cap.msgMax m.length = true → m.length < 3 →
    exec (.recv m) s = .next { s with msg := none, trace := s.trace ++ [.diag (.shortMessage m.length)] }) ∧
  (∀ (s : State) (t l0 l1 : Byte) (payload : Bytes),
    Config.within s.cap.msgMax (payload.length + 3) = true →
    exec (.recv (t :: l0 :: l1 :: payload)) s = .next { s with
      msg := none
      trace := s.trace ++ warningEvents (l0.toNat + 256 * l1.toNat) payload.length ++
        dispatchEvents (s.subtab.row (slotOf t)) (slotOf t) t payload })

/-- R105: `SEND`, its code, with and without a connection. -/
def Obligations.SendForwardsOrFails : Prop :=
  (∀ b, decode (.req 1 (.bytes b)) = .ok (.send b)) ∧
  (∀ (s : State) (b : Bytes), Config.within s.cap.msgMax b.length = true →
    (s.conn = true → exec (.send b) s = .next { s with trace := s.trace ++ [.tout b, .res .ok] }) ∧
    (s.conn = false → exec (.send b) s = .next { s with trace := s.trace ++ [.res .notConnectedError] }))

/-- R106: `SUBSCRIBE` and its code. It appends, does nothing to a row that has the identifier, and is refused by a
full row. Order and absence of repeats are decision D14. That an identifier already in a full row changes nothing,
where R106 and U17 can be read to refuse it, is the model's choice (log entry 9). Decision D14 is taken as the rule:
log entry 14. -/
def Obligations.SubscribeAppendsOnce : Prop :=
  (∀ slot x, decode (.req 2 (.subscription slot.number x)) = .ok (.subscribe slot x)) ∧
  (∀ (s : State) (slot : Slot) (x : Config.SinkId),
    (x ∈ s.subtab.row slot → exec (.subscribe slot x) s = .next s) ∧
    (x ∉ s.subtab.row slot → Config.within s.cap.subMax ((s.subtab.row slot).length + 1) = true →
      ∃ t, exec (.subscribe slot x) s = .next t ∧ t = { s with subtab := t.subtab } ∧
        t.subtab.row slot = s.subtab.row slot ++ [x] ∧
        ∀ other, other ≠ slot → t.subtab.row other = s.subtab.row other) ∧
    (x ∉ s.subtab.row slot → Config.within s.cap.subMax ((s.subtab.row slot).length + 1) = false →
      exec (.subscribe slot x) s = .refused (.rowFull slot)))

/-- R107: `CONNECTED` and its code; nothing but `CONN` and the port `LIFE` changes. What the spec decides here (D16)
is taken as the rule: log entry 14. -/
def Obligations.ConnectedSetsAndNotifies : Prop :=
  decode (.req 3 .none) = .ok .connected ∧
  (∀ s : State, exec .connected s = .next { s with conn := true, trace := s.trace ++ [.life .connected] })

/-- R109: `DISCONNECTED` and its code. It keeps subscriptions and waiting requests, and a `SEND` processed next fails.
What the spec decides here (D16) is taken as the rule: log entry 14. -/
def Obligations.DisconnectedClearsAndNotifies : Prop :=
  decode (.req 4 .none) = .ok .disconnected ∧
  (∀ s : State, exec .disconnected s = .next { s with conn := false, trace := s.trace ++ [.life .disconnected] } ∧
    ∀ (t : State) (b : Bytes), exec .disconnected s = .next t → Config.within t.cap.msgMax b.length = true →
      exec (.send b) t = .next { t with trace := t.trace ++ [.res .notConnectedError] })

/-- R102: each selector delivers the held message to the subscribers of its slot in registration order, or drops it
with `Dropped` when there is none, and a type byte without a DISPATCH row selects `UNKNOWN`. That a selector runs
alone on a held message is the model's choice (log entry 8). That deliveries follow the row's order, registration
order, is the spec's decision D14, which R102 and U4 let a model leave open: log entry 14 (DEDUCED, unsafe). -/
def Obligations.SelectorsDispatch : Prop :=
  ∀ (s : State) (t l0 l1 : Byte) (payload : Bytes), s.msg = some (t :: l0 :: l1 :: payload) →
    (exec .dispatchResponse s = .next { s with
      msg := none, trace := s.trace ++ dispatchEvents s.subtab.response .response t payload }) ∧
    (exec .dispatchDebug s = .next { s with
      msg := none, trace := s.trace ++ dispatchEvents s.subtab.debug .debug t payload }) ∧
    (exec .dispatchStatus s = .next { s with
      msg := none, trace := s.trace ++ dispatchEvents s.subtab.status .status t payload }) ∧
    (exec .dispatchData s = .next { s with
      msg := none, trace := s.trace ++ dispatchEvents s.subtab.data .data t payload }) ∧
    (exec .dispatchFft s = .next { s with
      msg := none, trace := s.trace ++ dispatchEvents s.subtab.fft .fft t payload }) ∧
    (s.busy = false → slotOf t = .unknown → step s = .next { s with
      msg := none, trace := s.trace ++ dispatchEvents s.subtab.unknown .unknown t payload })

/-- A selector stops where no message with a header is held: R100 reads the header only with `L >= 3`.
The fault is the model's (log entry 8). -/
def Obligations.SelectorsNeedAHeader : Prop :=
  ∀ (s : State) (i : Instr),
    i ∈ [Instr.dispatchResponse, .dispatchDebug, .dispatchStatus, .dispatchData, .dispatchFft] →
    (∀ m, s.msg = some m → m.length < 3) → exec i s = .fault .noHeader

/-- The frame of the requests and selectors (R34): none touches a register of `SC`, `RQ` or the inputs; only
`CONNECTED` and `DISCONNECTED` write `CONN`, only `SUBSCRIBE` writes `SUBTAB` and it emits nothing, only `RECV` and
the selectors end with `MSG` dropped; ports only gain transactions. -/
def Obligations.DemuxFrame : Prop :=
  ∀ (i : Instr) (s t : State), ¬ IsMicroOp i → exec i s = .next t →
    SameCodec s t ∧ t.rq = s.rq ∧ t.inputs = s.inputs ∧ t.cap = s.cap ∧ s.trace <+: t.trace ∧
    (t.conn ≠ s.conn → i = .connected ∨ i = .disconnected) ∧
    (t.subtab ≠ s.subtab → ∃ slot x, i = .subscribe slot x ∧ t.trace = s.trace) ∧
    (t.msg ≠ s.msg → t.msg = none ∧
      ∀ b slot x, i ≠ .send b ∧ i ≠ .subscribe slot x ∧ i ≠ .connected ∧ i ≠ .disconnected)

/-- R34 and R104 to R109: what each request reads. On two states with equal capacities that agree on the register it
reads (`SUBTAB` for `RECV` and `SUBSCRIBE`, `CONN` for `SEND`, none for `CONNECTED` and `DISCONNECTED`), whatever the
registers of `SC`, `RQ`, `MSG`, the inputs, the trace and the other register hold, a request puts out the same
transactions, writes the same values, and is refused alike. -/
def Obligations.RequestsReadOnlyTheirState : Prop :=
  ∀ s u : State, u.cap = s.cap →
    (∀ m, u.subtab = s.subtab →
      (∀ t, exec (.recv m) s = .next t → ∃ new, t.trace = s.trace ++ new ∧
        exec (.recv m) u = .next { u with msg := none, trace := u.trace ++ new }) ∧
      (∀ r, exec (.recv m) s = .refused r → exec (.recv m) u = .refused r)) ∧
    (∀ b, u.conn = s.conn →
      (∀ t, exec (.send b) s = .next t → ∃ new, t.trace = s.trace ++ new ∧
        exec (.send b) u = .next { u with trace := u.trace ++ new }) ∧
      (∀ r, exec (.send b) s = .refused r → exec (.send b) u = .refused r)) ∧
    (∀ slot x, u.subtab = s.subtab →
      (∀ t, exec (.subscribe slot x) s = .next t →
        exec (.subscribe slot x) u = .next { u with subtab := t.subtab }) ∧
      (∀ r, exec (.subscribe slot x) s = .refused r → exec (.subscribe slot x) u = .refused r)) ∧
    (∀ i : Instr, i = .connected ∨ i = .disconnected → ∀ t, exec i s = .next t →
      ∃ new, t.trace = s.trace ++ new ∧ exec i u = .next { u with conn := t.conn, trace := u.trace ++ new })

/-- R102, R103: one `RECV` makes at most one delivery to each subscriber. That the rows keep an order and repeat
nothing is the spec's decision D14 (log entry 14). -/
def Obligations.DeliveryAtMostOncePerRecv : Prop :=
  ∀ (s t : State) (m : Bytes) (x : Config.SinkId), TableOk s → exec (.recv m) s = .next t →
    ∃ new : List Event, t.trace = s.trace ++ new ∧
      (new.filter (isDeliveryTo x)).length ≤ 1

/-- R100: the header `PD` reads is what `DECODE {uint8, uint16}` yields on the message, and the short-message
condition is that operation's `BufferTooSmallError` (R99). What the spec decides here (D27) is taken as the rule: log
entry 14. -/
def Obligations.HeaderReadIsADecode : Prop :=
  ∀ m : Bytes,
    (3 ≤ m.length → decodeResult envHdr m =
      .decoded [.num ((typeByte m).zeroExtend 32), .num (BitVec.ofNat 32 (declaredLength m))] ∧
      declaredLength m < 65536) ∧
    (m.length < 3 → decodeResult envHdr m = .failed (.bufferTooSmallError 3 m.length))

/-! ## Codec operations: errors and refusals -/

/-- R118 and R68: which error an `ENCODE` reports. The count comes first; then the first field with a fault, and at
that field the unknown tag before the class mismatch; with none, `SIZE` is the sum of the field sizes.
The order is decision D8 (U3) and what an error carries decision D12 (log entry 14). -/
def Obligations.EncodeReportsTheFirstFault : Prop :=
  ∀ (desc : List TagCode) (vals : List Value),
    (desc.length ≠ vals.length → encodeCheck desc vals = .error (.formatError (.count desc.length vals.length))) ∧
    (desc.length = vals.length → ∀ (k : Nat) (c : TagCode) (x : Value), desc[k]? = some c → vals[k]? = some x →
      (∀ j d y, j < k → desc[j]? = some d → vals[j]? = some y → ∃ t, Tag.ofCode d = some t ∧ y.cls = classOf t) →
      (Tag.ofCode c = none → encodeCheck desc vals = .error (.formatError (.unknownTag k c))) ∧
      (∀ t, Tag.ofCode c = some t → x.cls ≠ classOf t →
        encodeCheck desc vals = .error (.typeMismatchError k t x.cls))) ∧
    (desc.length = vals.length →
      (∀ (j : Nat) d y, desc[j]? = some d → vals[j]? = some y → ∃ t, Tag.ofCode d = some t ∧ y.cls = classOf t) →
      encodeCheck desc vals = .ok (fieldsSize desc vals))

/-- R84, R85 and R118: which error a `DECODE` reports. The first offending element of the descriptor; else the
length, against the sum of the fixed widths. The order is decision D9 and what an error carries decision D12 (log entry
14). -/
def Obligations.DecodeReportsTheFirstFault : Prop :=
  ∀ (desc : List TagCode) (len : Nat),
    (∀ (k : Nat) (c : TagCode), desc[k]? = some c →
      (∀ (j : Nat) d, j < k → desc[j]? = some d → ∃ t, Tag.ofCode d = some t ∧ t ≠ .rawTail) →
      (Tag.ofCode c = none → decodeCheck desc len = .error (.formatError (.unknownTag k c))) ∧
      (Tag.ofCode c = some .rawTail → k + 1 ≠ desc.length →
        decodeCheck desc len = .error (.formatError (.rawTailNotLast k)))) ∧
    ((∀ c ∈ desc, (Tag.ofCode c).isSome = true) → rawOnlyLast desc = true →
      decodeCheck desc len =
        if len < fixedSize desc then .error (.bufferTooSmallError (fixedSize desc) len) else .ok (fixedSize desc))

/-- R119: an error is precise. A codec operation that fails a check leaves every register as it was but `STATUS`; its
only output is the error; and a `SEND` that fails leaves all state as it was. That codec
operations come as moves of the environment is the model's choice (log entry 4), and that `STATUS` keeps the error
(log entry 13). -/
def Obligations.ErrorsArePrecise : Prop :=
  (∀ (s : State) (desc : List TagCode) (vals : List Value) (rest : List Input) (e : CodecError), Idle s →
    s.inputs = .encode desc vals :: rest → Config.within s.cap.descMax desc.length = true →
    vals.all (rawFits s.cap) = true → encodeCheck desc vals = .error e →
    step s = .next { s with
      inputs := rest, status := .error e, trace := s.trace ++ [.codec (.failed e)] }) ∧
  (∀ (s : State) (desc : List TagCode) (bytes : Bytes) (rest : List Input) (e : CodecError), Idle s →
    s.inputs = .decode desc bytes :: rest → Config.within s.cap.descMax desc.length = true →
    Config.within s.cap.bufMax bytes.length = true → decodeCheck desc bytes.length = .error e →
    step s = .next { s with
      inputs := rest, status := .error e, trace := s.trace ++ [.codec (.failed e)] }) ∧
  (∀ (s : State) (b : Bytes), Config.within s.cap.msgMax b.length = true → s.conn = false →
    exec (.send b) s = .next { s with trace := s.trace ++ [.res .notConnectedError] })

/-- R70: an `ENCODE` whose checks pass and that holds a lane that is not canonical for its field is refused. Which
field the refusal names is log entry 11; an `ENCODE` as a move of the environment is log entry 4. The range and the
reading of the narrow signed fields are presumed (G1, log entry 15). -/
def Obligations.OutOfRangeValueIsRefused : Prop :=
  ∀ (s : State) (desc : List TagCode) (vals : List Value) (rest : List Input) (size k : Nat) (c : TagCode) (t : Tag)
    (x : Value), Idle s → s.inputs = .encode desc vals :: rest → Config.within s.cap.descMax desc.length = true →
    vals.all (rawFits s.cap) = true → encodeCheck desc vals = .ok size →
    desc[k]? = some c → vals[k]? = some x → Tag.ofCode c = some t → canonical t x = false →
    ∃ i, i ≤ k ∧ step s = .refused (.valueOutOfRange i)

/-- R6: an operation beyond a finite capacity is refused, never truncated: `MSG_MAX` for `RECV` and `SEND`, `DESC_MAX`
and `BUF_MAX` for `ENCODE` and `DECODE`, `SUB_MAX` for `SUBSCRIBE`, and the queue depth of U5 for each of the five
arrivals. That operands beyond a capacity are refused before the checks is the model's choice (log entry 9), and so are
the capacities as a field of the state (log entry 2) and arrivals and operations as a list of moves (log entry 4). -/
def Obligations.OverCapacityIsRefused : Prop :=
  (∀ (s : State) (m : Bytes), Instr.wf s.cap (.recv m) = false → exec (.recv m) s = .refused .messageTooLong) ∧
  (∀ (s : State) (b : Bytes), Instr.wf s.cap (.send b) = false → exec (.send b) s = .refused .messageTooLong) ∧
  (∀ (s : State) (desc : List TagCode) (vals : List Value) (rest : List Input), Idle s →
    s.inputs = .encode desc vals :: rest →
    (Config.within s.cap.descMax desc.length = false → step s = .refused .descriptorTooLong) ∧
    (Config.within s.cap.descMax desc.length = true → vals.all (rawFits s.cap) = false →
      step s = .refused .bufferTooLong) ∧
    (∀ size, Config.within s.cap.descMax desc.length = true → vals.all (rawFits s.cap) = true →
      encodeCheck desc vals = .ok size → firstOutOfRange 0 desc vals = none →
      Config.within s.cap.bufMax size = false → step s = .refused .bufferTooLong)) ∧
  (∀ (s : State) (desc : List TagCode) (bytes : Bytes) (rest : List Input), Idle s →
    s.inputs = .decode desc bytes :: rest →
    (Config.within s.cap.descMax desc.length = false → step s = .refused .descriptorTooLong) ∧
    (Config.within s.cap.descMax desc.length = true → Config.within s.cap.bufMax bytes.length = false →
      step s = .refused .bufferTooLong)) ∧
  (∀ (s : State) (slot : Slot) (x : Config.SinkId), x ∉ s.subtab.row slot →
    Config.within s.cap.subMax ((s.subtab.row slot).length + 1) = false →
    exec (.subscribe slot x) s = .refused (.rowFull slot)) ∧
  (∀ (s : State) (rest : List Input), Idle s → Config.within s.cap.rqMax (s.rq.length + 1) = false →
    (∀ b, s.inputs = .tin (.onMessage b) :: rest → step s = .refused .queueFull) ∧
    (s.inputs = .tin .onConnected :: rest → step s = .refused .queueFull) ∧
    (s.inputs = .tin .onDisconnected :: rest → step s = .refused .queueFull) ∧
    (∀ b, s.inputs = .req (.send b) :: rest → step s = .refused .queueFull) ∧
    (∀ slot x, s.inputs = .req (.subscribe slot x) :: rest → step s = .refused .queueFull))

/-! ## The step -/

/-- A step runs the instruction its fetch decodes: the micro-operation at `fi` of an operation in progress; else the
selector of a held message; else, when it is `PD`'s turn, the oldest request, taken out of `RQ`. The model's
choices in this: one micro-operation a step (log entry 1), a selector run as an instruction on a held message (log entry
8), and the list of moves that says whose turn it is (log entry 4). -/
def Obligations.StepRunsTheDecodedInstruction : Prop :=
  (∀ (s : State) (c : TagCode) (i : Instr), s.busy = true → s.desc[s.fi]? = some c →
    decode (.uop (uopKey s.mode c)) = .ok i → step s = exec i s) ∧
  (∀ (s : State) (t : Byte) (m : Bytes) (i : Instr), s.busy = false → s.msg = some (t :: m) →
    decode (.ptype t) = .ok i → step s = exec i s) ∧
  (∀ (s : State) (r : Request) (queue : List Request) (i : Instr), Idle s → s.rq = r :: queue →
    decode r.code = .ok i →
    (s.inputs = [] → step s = exec i { s with rq := queue }) ∧
    (∀ rest, s.inputs = .pd :: rest → step s = exec i { s with rq := queue, inputs := rest }))

/-- R111, R128: with `RQ` empty and nothing arriving, `PD` waits and all state survives, and a turn of `PD` with `RQ`
empty only passes (that an idle block steps, and the list of moves, are log entry 4); and an operation whose last field
is done returns its result (R68, R84), a step of its own (log entry 1) that leaves `STATUS` and the other registers of
`SC` standing (log entry 13). -/
def Obligations.StepWaitsOrFinishes : Prop :=
  (∀ s : State, Idle s → s.inputs = [] → s.rq = [] → step s = .next s) ∧
  (∀ (s : State) (rest : List Input), Idle s → s.inputs = .pd :: rest → s.rq = [] →
    step s = .next { s with inputs := rest }) ∧
  (∀ s : State, s.busy = true → s.fi = s.desc.length →
    (s.mode = .encode →
      step s = .next { s with busy := false, status := .ok, trace := s.trace ++ [.codec (.encoded s.buf)] }) ∧
    (s.mode = .decode →
      step s = .next { s with busy := false, status := .ok, trace := s.trace ++ [.codec (.decoded s.v)] }))

/-- R25, R26: what arrives on `TIN` and `REQ` becomes a request at the end of `RQ`, and changes nothing else. Arrivals
as a list of moves: log entry 4. What the spec decides here (D18) is taken as the rule: log entry 14. -/
def Obligations.ArrivalsEnterTheQueueInOrder : Prop :=
  ∀ (s : State) (rest : List Input), Idle s → Config.within s.cap.rqMax (s.rq.length + 1) = true →
    (∀ b, s.inputs = .tin (.onMessage b) :: rest →
      step s = .next { s with inputs := rest, rq := s.rq ++ [.recv b] }) ∧
    (s.inputs = .tin .onConnected :: rest → step s = .next { s with inputs := rest, rq := s.rq ++ [.connected] }) ∧
    (s.inputs = .tin .onDisconnected :: rest →
      step s = .next { s with inputs := rest, rq := s.rq ++ [.disconnected] }) ∧
    (∀ b, s.inputs = .req (.send b) :: rest → step s = .next { s with inputs := rest, rq := s.rq ++ [.send b] }) ∧
    (∀ slot x, s.inputs = .req (.subscribe slot x) :: rest →
      step s = .next { s with inputs := rest, rq := s.rq ++ [.subscribe slot x] })

/-! ## Whole operations, whole runs -/

/-- R5, R40, R68: an `ENCODE` that is neither failed nor refused takes `n + 2` steps, in which no other agent moves
and no port gets anything before the last; its result is the concatenation of its fields' bytes. That the model takes
several steps for R5's one transition is log entry 1; this statement says the difference cannot be seen. What the
registers of `SC` hold after the end, which R13 calls meaningless, is log entry 13; the operation as a move is log
entry 4. The range and the reading of the narrow signed fields are presumed (G1, log entry 15). -/
def Obligations.EncodeIsOneTransaction : Prop :=
  ∀ (s : State) (desc : List TagCode) (vals : List Value) (rest : List Input) (b : Bytes), Idle s →
    s.inputs = .encode desc vals :: rest → Config.within s.cap.descMax desc.length = true →
    vals.all (rawFits s.cap) = true → encodeResult desc vals = some (.encoded b) →
    Config.within s.cap.bufMax b.length = true →
    (∃ t, steps (desc.length + 2) s = .next t ∧ t.trace = s.trace ++ [.codec (.encoded b)] ∧
      t.busy = false ∧ t.status = .ok ∧ t.buf = b ∧ t.fi = desc.length ∧ t.off = b.length ∧ t.size = b.length ∧
      SameDemux s t ∧ t.inputs = rest ∧ t.cap = s.cap) ∧
    (∀ k u, 1 ≤ k → k ≤ desc.length + 1 → steps k s = .next u →
      u.busy = true ∧ u.trace = s.trace ∧ SameDemux s u ∧ u.inputs = rest ∧ u.desc = desc ∧ u.v = vals)

/-- R5, R40, R84: the same of a `DECODE`; its result is the values of its fields read in order (log entries 1 and 4;
what the registers of `SC` hold after the end, which R13 calls meaningless, is log entry 13). The range and the
reading of the narrow signed fields are presumed (G1, log entry 15). -/
def Obligations.DecodeIsOneTransaction : Prop :=
  ∀ (s : State) (desc : List TagCode) (bytes : Bytes) (rest : List Input) (vals : List Value), Idle s →
    s.inputs = .decode desc bytes :: rest → Config.within s.cap.descMax desc.length = true →
    Config.within s.cap.bufMax bytes.length = true → decodeResult desc bytes = .decoded vals →
    (∃ t, steps (desc.length + 2) s = .next t ∧ t.trace = s.trace ++ [.codec (.decoded vals)] ∧
      t.busy = false ∧ t.status = .ok ∧ t.v = vals ∧ t.fi = desc.length ∧ t.off ≤ bytes.length ∧
      SameDemux s t ∧ t.inputs = rest ∧ t.cap = s.cap) ∧
    (∀ k u, 1 ≤ k → k ≤ desc.length + 1 → steps k s = .next u →
      u.busy = true ∧ u.trace = s.trace ∧ SameDemux s u ∧ u.inputs = rest ∧ u.desc = desc ∧ u.buf = bytes)

/-- R88: the round trip in both directions, on the results the two statements before this one give the steps. The
range and the reading of the narrow signed fields are presumed (G1, log entry 15). -/
def Obligations.CodecRoundTrip : Prop :=
  (∀ (desc : List TagCode) (vals : List Value) (b : Bytes), rawOnlyLast desc = true →
    encodeResult desc vals = some (.encoded b) → decodeResult desc b = .decoded vals) ∧
  (∀ (desc : List TagCode) (bytes : Bytes), (∀ c ∈ desc, (Tag.ofCode c).isSome = true) → rawOnlyLast desc = true →
    (fixedSize desc ≤ bytes.length ∧ desc.getLast? = some Tag.rawTail.code ∨
      bytes.length = fixedSize desc ∧ Tag.rawTail.code ∉ desc) →
    ∃ vals, decodeResult desc bytes = .decoded vals ∧ encodeResult desc vals = some (.encoded bytes))

/-- The invariant holds at reset. That the rows keep an order and repeat nothing is the spec's decision D14 (log entry
14). -/
def Obligations.ResetHasTheInvariant : Prop := Inv State.reset

/-- Every step keeps the invariant (R16, R23, R24, R41). That the rows keep an order and repeat nothing is the spec's
decision D14 (log entry 14). The range and the reading of the narrow signed fields are presumed (G1, log entry 15). -/
def Obligations.StepKeepsTheInvariant : Prop := ∀ s t : State, Inv s → step s = .next t → Inv t

/-- R41: from a state with the invariant no step faults; an access outside a buffer is never attempted. The
faults themselves are the model's (log entry 8). -/
def Obligations.StepNeverFaults : Prop := ∀ (s : State) (f : Fault), Inv s → step s ≠ .fault f

/-- With unbounded capacities, the only step that is refused is the start of an `ENCODE` that passes every check and
holds an out-of-range value (R6, R10, R70). That operations are moves is log entry 4, and which field is named log
entry 11. The range and the reading of the narrow signed fields are presumed (G1, log entry 15). -/
def Obligations.OnlyOutOfRangeIsRefused : Prop :=
  ∀ (s : State) (r : Refusal), Inv s → s.cap = Config.Capacities.unbounded → step s = .refused r →
    ∃ i desc vals rest, r = .valueOutOfRange i ∧ s.inputs = .encode desc vals :: rest ∧
      (∃ size, encodeCheck desc vals = .ok size) ∧ firstOutOfRange 0 desc vals = some i

/-- R22, R23: whatever moves, a subscription once made stays, in its place in its row; `CONN` changes only when a
`CONNECTED` or `DISCONNECTED` is the oldest request of `RQ`; and no transaction once made is taken back. That the rows
keep an order and repeat nothing is the spec's decision D14 (log entry 14). One trace of all ports is log entry 7. -/
def Obligations.SubscriptionsAndTracesOnlyGrow : Prop :=
  ∀ s t : State, step s = .next t →
    (∀ slot, s.subtab.row slot <+: t.subtab.row slot) ∧ s.trace <+: t.trace ∧ t.cap = s.cap ∧
    (t.conn ≠ s.conn → s.rq.head? = some .connected ∧ t.conn = true ∨
      s.rq.head? = some .disconnected ∧ t.conn = false)

/-- R13: the two units share no state. A micro-operation writes no register of `PD` and no port; an instruction of
`PD` writes no register of `SC`. -/
def Obligations.UnitsAreSeparate : Prop :=
  ∀ (i : Instr) (s t : State), exec i s = .next t →
    (IsMicroOp i → SameDemux s t ∧ t.trace = s.trace ∧ t.inputs = s.inputs) ∧ (¬ IsMicroOp i → SameCodec s t)

/-- R140: every request is processed. With nothing more arriving and unbounded capacities, `PD` empties its queue in
as many steps as it holds requests (the list of moves is log entry 4). What the spec decides here (D30) is taken as
the rule: log entry 14. -/
def Obligations.QueueDrains : Prop :=
  ∀ s : State, Idle s → s.inputs = [] → s.cap = Config.Capacities.unbounded →
    ∃ t, steps s.rq.length s = .next t ∧ t.rq = [] ∧ Idle t

/-- R13, R19, R21: an operation that starts loads every register of `SC`, `STATUS` among them, and keeps nothing of what
ran before. Two idle states that differ in the registers of `SC`, in `PD` and in the ports, and agree on the capacities
and on the counter of free values (log entry 6), have the same registers of `SC` once the same operation (a move: log
entry 4) has started in each. -/
def Obligations.OperationsForgetWhatRanBefore : Prop :=
  ∀ (s u t : State) (x : Input) (rest : List Input), Idle s → Idle u → u.cap = s.cap → u.allocs = s.allocs →
    s.inputs = x :: rest → u.inputs = x :: rest →
    ((∃ desc vals, x = .encode desc vals) ∨ ∃ desc bytes, x = .decode desc bytes) →
    step s = .next t → t.busy = true → ∃ w, step u = .next w ∧ SameCodec t w
end

