-- ==== Sys2Proof/Laws/Bytes.lean ====
section
/-! SUPPORT. The byte-order laws: numbers and their little-endian bytes, and reads and writes of a byte sequence. -/

namespace Sys2Proof.Machine

open Sys2Proof

/-! ## Numbers and their bytes -/

@[simp] theorem leBytes_length (n v : Nat) : (leBytes n v).length = n := by
  induction n generalizing v with
  | zero => rfl
  | succ n ih => simp [leBytes, ih]

theorem leNat_lt (b : Bytes) : leNat b < 256 ^ b.length := by
  induction b with
  | nil => simp [leNat]
  | cons x xs ih =>
    have := x.isLt
    simp only [leNat, List.length_cons, Nat.pow_succ]
    omega

theorem leNat_leBytes (n v : Nat) : leNat (leBytes n v) = v % 256 ^ n := by
  induction n generalizing v with
  | zero => simp [leBytes, leNat, Nat.mod_one]
  | succ n ih =>
    have h : v % 256 ^ (n + 1) = v % 256 + 256 * (v / 256 % 256 ^ n) := by
      rw [Nat.pow_succ, Nat.mul_comm (256 ^ n) 256, Nat.mod_mul]
    simp only [leBytes, leNat, ih, h]
    simp

theorem leBytes_leNat (b : Bytes) : leBytes b.length (leNat b) = b := by
  induction b with
  | nil => rfl
  | cons x xs ih =>
    have hx := x.isLt
    simp only [List.length_cons, leBytes, leNat, List.cons.injEq]
    refine ⟨?_, ?_⟩
    · apply BitVec.eq_of_toNat_eq
      simp only [BitVec.toNat_ofNat]
      omega
    · rw [show (x.toNat + 256 * leNat xs) / 256 = leNat xs by omega, ih]

theorem leBytes_getElem? (n v k : Nat) (h : k < n) :
    (leBytes n v)[k]? = some (BitVec.ofNat 8 (v / 256 ^ k)) := by
  induction n generalizing v k with
  | zero => omega
  | succ n ih =>
    cases k with
    | zero => simp [leBytes]
    | succ k =>
      simp only [leBytes, List.getElem?_cons_succ]
      rw [ih _ _ (by omega), Nat.pow_succ, Nat.mul_comm (256 ^ k) 256, Nat.div_div_eq_div_mul]

theorem ofNat_div_eq_extract {m : Nat} (w : BitVec m) (k : Nat) :
    BitVec.ofNat 8 (w.toNat / 2 ^ k) = w.extractLsb' k 8 := by
  apply BitVec.eq_of_toNat_eq
  simp [BitVec.extractLsb'_toNat, Nat.shiftRight_eq_div_pow]

theorem leBytes_one {m : Nat} (w : BitVec m) : leBytes 1 w.toNat = [w.extractLsb' 0 8] := by
  simp [leBytes, ← ofNat_div_eq_extract]

theorem leBytes_two {m : Nat} (w : BitVec m) :
    leBytes 2 w.toNat = [w.extractLsb' 0 8, w.extractLsb' 8 8] := by
  simp [leBytes, ← ofNat_div_eq_extract]

theorem leBytes_four {m : Nat} (w : BitVec m) :
    leBytes 4 w.toNat = [w.extractLsb' 0 8, w.extractLsb' 8 8, w.extractLsb' 16 8, w.extractLsb' 24 8] := by
  simp [leBytes, ← ofNat_div_eq_extract, Nat.div_div_eq_div_mul]

theorem leBytes_eight {m : Nat} (w : BitVec m) :
    leBytes 8 w.toNat = [w.extractLsb' 0 8, w.extractLsb' 8 8, w.extractLsb' 16 8, w.extractLsb' 24 8,
      w.extractLsb' 32 8, w.extractLsb' 40 8, w.extractLsb' 48 8, w.extractLsb' 56 8] := by
  simp [leBytes, ← ofNat_div_eq_extract, Nat.div_div_eq_div_mul]

/-! ## Reads and writes -/

theorem memRead_eq_some_iff (b : Bytes) (off n r : Nat) :
    memRead b off n = some r ↔ off + n ≤ b.length ∧ leNat ((b.drop off).take n) = r := by
  unfold memRead
  by_cases h : off + n ≤ b.length <;> simp [h]

theorem writeBytes_eq_some_iff (b b' : Bytes) (off : Nat) (w : Bytes) :
    writeBytes b off w = some b' ↔
      off + w.length ≤ b.length ∧ b' = b.take off ++ w ++ b.drop (off + w.length) := by
  unfold writeBytes
  by_cases h : off + w.length ≤ b.length <;> simp [h, eq_comm]

theorem splice_length {b w : Bytes} {off : Nat} (h : off + w.length ≤ b.length) :
    (b.take off ++ w ++ b.drop (off + w.length)).length = b.length := by
  simp only [List.length_append, List.length_take, List.length_drop]
  omega

/-- Outside the bytes written, every byte of the sequence reads as before. -/
theorem splice_getElem?_outside {b w : Bytes} {off a : Nat} (h : off + w.length ≤ b.length)
    (ha : a < off ∨ off + w.length ≤ a) :
    (b.take off ++ w ++ b.drop (off + w.length))[a]? = b[a]? := by
  rcases ha with ha | ha
  · rw [List.append_assoc, List.getElem?_append_left (by simp only [List.length_take]; omega),
      List.getElem?_take_of_lt ha]
  · have hl : (b.take off ++ w).length = off + w.length := by
      simp only [List.length_append, List.length_take]; omega
    rw [List.getElem?_append_right (by omega), hl, List.getElem?_drop]
    congr 1; omega

/-- The bytes written read back as written. -/
theorem splice_getElem?_inside {b w : Bytes} {off k : Nat} (h : off + w.length ≤ b.length) (hk : k < w.length) :
    (b.take off ++ w ++ b.drop (off + w.length))[off + k]? = w[k]? := by
  have hl : (b.take off).length = off := by simp only [List.length_take]; omega
  rw [List.append_assoc, List.getElem?_append_right (by omega), hl,
    List.getElem?_append_left (by omega)]
  congr 1; omega

theorem splice_drop_take {b w : Bytes} {off : Nat} (h : off + w.length ≤ b.length) :
    ((b.take off ++ w ++ b.drop (off + w.length)).drop off).take w.length = w := by
  have hl : (b.take off).length = off := by simp only [List.length_take]; omega
  rw [List.append_assoc, List.drop_append_of_le_length (by omega), List.drop_of_length_le (by omega)]
  simp

end Sys2Proof.Machine
end

