-- ==== Sys2Proof/Laws/State.lean ====
section
/-! SUPPORT. What each named update does to each field of the state: one lemma a field, true by rfl. -/

namespace Sys2Proof.Machine

open Sys2Proof

/-! `State.advance` -/

@[simp] theorem State.advance_cap (s : State) (w : Nat) : (s.advance w).cap = s.cap := rfl
@[simp] theorem State.advance_busy (s : State) (w : Nat) : (s.advance w).busy = s.busy := rfl
@[simp] theorem State.advance_mode (s : State) (w : Nat) : (s.advance w).mode = s.mode := rfl
@[simp] theorem State.advance_desc (s : State) (w : Nat) : (s.advance w).desc = s.desc := rfl
@[simp] theorem State.advance_v (s : State) (w : Nat) : (s.advance w).v = s.v := rfl
@[simp] theorem State.advance_fi (s : State) (w : Nat) : (s.advance w).fi = s.fi + 1 := rfl
@[simp] theorem State.advance_off (s : State) (w : Nat) : (s.advance w).off = s.off + w := rfl
@[simp] theorem State.advance_size (s : State) (w : Nat) : (s.advance w).size = s.size := rfl
@[simp] theorem State.advance_buf (s : State) (w : Nat) : (s.advance w).buf = s.buf := rfl
@[simp] theorem State.advance_status (s : State) (w : Nat) : (s.advance w).status = s.status := rfl
@[simp] theorem State.advance_allocs (s : State) (w : Nat) : (s.advance w).allocs = s.allocs := rfl
@[simp] theorem State.advance_conn (s : State) (w : Nat) : (s.advance w).conn = s.conn := rfl
@[simp] theorem State.advance_subtab (s : State) (w : Nat) : (s.advance w).subtab = s.subtab := rfl
@[simp] theorem State.advance_msg (s : State) (w : Nat) : (s.advance w).msg = s.msg := rfl
@[simp] theorem State.advance_rq (s : State) (w : Nat) : (s.advance w).rq = s.rq := rfl
@[simp] theorem State.advance_trace (s : State) (w : Nat) : (s.advance w).trace = s.trace := rfl
@[simp] theorem State.advance_inputs (s : State) (w : Nat) : (s.advance w).inputs = s.inputs := rfl

/-! `State.setBuf` -/

@[simp] theorem State.setBuf_cap (s : State) (b : Bytes) : (s.setBuf b).cap = s.cap := rfl
@[simp] theorem State.setBuf_busy (s : State) (b : Bytes) : (s.setBuf b).busy = s.busy := rfl
@[simp] theorem State.setBuf_mode (s : State) (b : Bytes) : (s.setBuf b).mode = s.mode := rfl
@[simp] theorem State.setBuf_desc (s : State) (b : Bytes) : (s.setBuf b).desc = s.desc := rfl
@[simp] theorem State.setBuf_v (s : State) (b : Bytes) : (s.setBuf b).v = s.v := rfl
@[simp] theorem State.setBuf_fi (s : State) (b : Bytes) : (s.setBuf b).fi = s.fi := rfl
@[simp] theorem State.setBuf_off (s : State) (b : Bytes) : (s.setBuf b).off = s.off := rfl
@[simp] theorem State.setBuf_size (s : State) (b : Bytes) : (s.setBuf b).size = s.size := rfl
@[simp] theorem State.setBuf_buf (s : State) (b : Bytes) : (s.setBuf b).buf = b := rfl
@[simp] theorem State.setBuf_status (s : State) (b : Bytes) : (s.setBuf b).status = s.status := rfl
@[simp] theorem State.setBuf_allocs (s : State) (b : Bytes) : (s.setBuf b).allocs = s.allocs := rfl
@[simp] theorem State.setBuf_conn (s : State) (b : Bytes) : (s.setBuf b).conn = s.conn := rfl
@[simp] theorem State.setBuf_subtab (s : State) (b : Bytes) : (s.setBuf b).subtab = s.subtab := rfl
@[simp] theorem State.setBuf_msg (s : State) (b : Bytes) : (s.setBuf b).msg = s.msg := rfl
@[simp] theorem State.setBuf_rq (s : State) (b : Bytes) : (s.setBuf b).rq = s.rq := rfl
@[simp] theorem State.setBuf_trace (s : State) (b : Bytes) : (s.setBuf b).trace = s.trace := rfl
@[simp] theorem State.setBuf_inputs (s : State) (b : Bytes) : (s.setBuf b).inputs = s.inputs := rfl

/-! `State.setSlot` -/

@[simp] theorem State.setSlot_cap (s : State) (i : Nat) (x : Value) : (s.setSlot i x).cap = s.cap := rfl
@[simp] theorem State.setSlot_busy (s : State) (i : Nat) (x : Value) : (s.setSlot i x).busy = s.busy := rfl
@[simp] theorem State.setSlot_mode (s : State) (i : Nat) (x : Value) : (s.setSlot i x).mode = s.mode := rfl
@[simp] theorem State.setSlot_desc (s : State) (i : Nat) (x : Value) : (s.setSlot i x).desc = s.desc := rfl
@[simp] theorem State.setSlot_v (s : State) (i : Nat) (x : Value) : (s.setSlot i x).v = s.v.set i x := rfl
@[simp] theorem State.setSlot_fi (s : State) (i : Nat) (x : Value) : (s.setSlot i x).fi = s.fi := rfl
@[simp] theorem State.setSlot_off (s : State) (i : Nat) (x : Value) : (s.setSlot i x).off = s.off := rfl
@[simp] theorem State.setSlot_size (s : State) (i : Nat) (x : Value) : (s.setSlot i x).size = s.size := rfl
@[simp] theorem State.setSlot_buf (s : State) (i : Nat) (x : Value) : (s.setSlot i x).buf = s.buf := rfl
@[simp] theorem State.setSlot_status (s : State) (i : Nat) (x : Value) : (s.setSlot i x).status = s.status := rfl
@[simp] theorem State.setSlot_allocs (s : State) (i : Nat) (x : Value) : (s.setSlot i x).allocs = s.allocs := rfl
@[simp] theorem State.setSlot_conn (s : State) (i : Nat) (x : Value) : (s.setSlot i x).conn = s.conn := rfl
@[simp] theorem State.setSlot_subtab (s : State) (i : Nat) (x : Value) : (s.setSlot i x).subtab = s.subtab := rfl
@[simp] theorem State.setSlot_msg (s : State) (i : Nat) (x : Value) : (s.setSlot i x).msg = s.msg := rfl
@[simp] theorem State.setSlot_rq (s : State) (i : Nat) (x : Value) : (s.setSlot i x).rq = s.rq := rfl
@[simp] theorem State.setSlot_trace (s : State) (i : Nat) (x : Value) : (s.setSlot i x).trace = s.trace := rfl
@[simp] theorem State.setSlot_inputs (s : State) (i : Nat) (x : Value) : (s.setSlot i x).inputs = s.inputs := rfl

/-! `State.beginOperation` -/

@[simp] theorem State.beginOperation_cap (s : State) (m : Mode) (desc : List TagCode) (v : List Value) (size : Nat) (buf : Bytes) :
    (s.beginOperation m desc v size buf).cap = s.cap := rfl
@[simp] theorem State.beginOperation_busy (s : State) (m : Mode) (desc : List TagCode) (v : List Value) (size : Nat) (buf : Bytes) :
    (s.beginOperation m desc v size buf).busy = true := rfl
@[simp] theorem State.beginOperation_mode (s : State) (m : Mode) (desc : List TagCode) (v : List Value) (size : Nat) (buf : Bytes) :
    (s.beginOperation m desc v size buf).mode = m := rfl
@[simp] theorem State.beginOperation_desc (s : State) (m : Mode) (desc : List TagCode) (v : List Value) (size : Nat) (buf : Bytes) :
    (s.beginOperation m desc v size buf).desc = desc := rfl
@[simp] theorem State.beginOperation_v (s : State) (m : Mode) (desc : List TagCode) (v : List Value) (size : Nat) (buf : Bytes) :
    (s.beginOperation m desc v size buf).v = v := rfl
@[simp] theorem State.beginOperation_fi (s : State) (m : Mode) (desc : List TagCode) (v : List Value) (size : Nat) (buf : Bytes) :
    (s.beginOperation m desc v size buf).fi = 0 := rfl
@[simp] theorem State.beginOperation_off (s : State) (m : Mode) (desc : List TagCode) (v : List Value) (size : Nat) (buf : Bytes) :
    (s.beginOperation m desc v size buf).off = 0 := rfl
@[simp] theorem State.beginOperation_size (s : State) (m : Mode) (desc : List TagCode) (v : List Value) (size : Nat) (buf : Bytes) :
    (s.beginOperation m desc v size buf).size = size := rfl
@[simp] theorem State.beginOperation_buf (s : State) (m : Mode) (desc : List TagCode) (v : List Value) (size : Nat) (buf : Bytes) :
    (s.beginOperation m desc v size buf).buf = buf := rfl
@[simp] theorem State.beginOperation_status (s : State) (m : Mode) (desc : List TagCode) (v : List Value) (size : Nat) (buf : Bytes) :
    (s.beginOperation m desc v size buf).status = Config.freshStatus s.allocs := rfl
@[simp] theorem State.beginOperation_allocs (s : State) (m : Mode) (desc : List TagCode) (v : List Value) (size : Nat) (buf : Bytes) :
    (s.beginOperation m desc v size buf).allocs = s.allocs + 1 := rfl
@[simp] theorem State.beginOperation_conn (s : State) (m : Mode) (desc : List TagCode) (v : List Value) (size : Nat) (buf : Bytes) :
    (s.beginOperation m desc v size buf).conn = s.conn := rfl
@[simp] theorem State.beginOperation_subtab (s : State) (m : Mode) (desc : List TagCode) (v : List Value) (size : Nat) (buf : Bytes) :
    (s.beginOperation m desc v size buf).subtab = s.subtab := rfl
@[simp] theorem State.beginOperation_msg (s : State) (m : Mode) (desc : List TagCode) (v : List Value) (size : Nat) (buf : Bytes) :
    (s.beginOperation m desc v size buf).msg = s.msg := rfl
@[simp] theorem State.beginOperation_rq (s : State) (m : Mode) (desc : List TagCode) (v : List Value) (size : Nat) (buf : Bytes) :
    (s.beginOperation m desc v size buf).rq = s.rq := rfl
@[simp] theorem State.beginOperation_trace (s : State) (m : Mode) (desc : List TagCode) (v : List Value) (size : Nat) (buf : Bytes) :
    (s.beginOperation m desc v size buf).trace = s.trace := rfl
@[simp] theorem State.beginOperation_inputs (s : State) (m : Mode) (desc : List TagCode) (v : List Value) (size : Nat) (buf : Bytes) :
    (s.beginOperation m desc v size buf).inputs = s.inputs := rfl

/-! `State.endOperation` -/

@[simp] theorem State.endOperation_cap (s : State) (st : Status) : (s.endOperation st).cap = s.cap := rfl
@[simp] theorem State.endOperation_busy (s : State) (st : Status) : (s.endOperation st).busy = false := rfl
@[simp] theorem State.endOperation_mode (s : State) (st : Status) : (s.endOperation st).mode = s.mode := rfl
@[simp] theorem State.endOperation_desc (s : State) (st : Status) : (s.endOperation st).desc = s.desc := rfl
@[simp] theorem State.endOperation_v (s : State) (st : Status) : (s.endOperation st).v = s.v := rfl
@[simp] theorem State.endOperation_fi (s : State) (st : Status) : (s.endOperation st).fi = s.fi := rfl
@[simp] theorem State.endOperation_off (s : State) (st : Status) : (s.endOperation st).off = s.off := rfl
@[simp] theorem State.endOperation_size (s : State) (st : Status) : (s.endOperation st).size = s.size := rfl
@[simp] theorem State.endOperation_buf (s : State) (st : Status) : (s.endOperation st).buf = s.buf := rfl
@[simp] theorem State.endOperation_status (s : State) (st : Status) : (s.endOperation st).status = st := rfl
@[simp] theorem State.endOperation_allocs (s : State) (st : Status) : (s.endOperation st).allocs = s.allocs := rfl
@[simp] theorem State.endOperation_conn (s : State) (st : Status) : (s.endOperation st).conn = s.conn := rfl
@[simp] theorem State.endOperation_subtab (s : State) (st : Status) : (s.endOperation st).subtab = s.subtab := rfl
@[simp] theorem State.endOperation_msg (s : State) (st : Status) : (s.endOperation st).msg = s.msg := rfl
@[simp] theorem State.endOperation_rq (s : State) (st : Status) : (s.endOperation st).rq = s.rq := rfl
@[simp] theorem State.endOperation_trace (s : State) (st : Status) : (s.endOperation st).trace = s.trace := rfl
@[simp] theorem State.endOperation_inputs (s : State) (st : Status) : (s.endOperation st).inputs = s.inputs := rfl

/-! `State.emit` -/

@[simp] theorem State.emit_cap (s : State) (e : Event) : (s.emit e).cap = s.cap := rfl
@[simp] theorem State.emit_busy (s : State) (e : Event) : (s.emit e).busy = s.busy := rfl
@[simp] theorem State.emit_mode (s : State) (e : Event) : (s.emit e).mode = s.mode := rfl
@[simp] theorem State.emit_desc (s : State) (e : Event) : (s.emit e).desc = s.desc := rfl
@[simp] theorem State.emit_v (s : State) (e : Event) : (s.emit e).v = s.v := rfl
@[simp] theorem State.emit_fi (s : State) (e : Event) : (s.emit e).fi = s.fi := rfl
@[simp] theorem State.emit_off (s : State) (e : Event) : (s.emit e).off = s.off := rfl
@[simp] theorem State.emit_size (s : State) (e : Event) : (s.emit e).size = s.size := rfl
@[simp] theorem State.emit_buf (s : State) (e : Event) : (s.emit e).buf = s.buf := rfl
@[simp] theorem State.emit_status (s : State) (e : Event) : (s.emit e).status = s.status := rfl
@[simp] theorem State.emit_allocs (s : State) (e : Event) : (s.emit e).allocs = s.allocs := rfl
@[simp] theorem State.emit_conn (s : State) (e : Event) : (s.emit e).conn = s.conn := rfl
@[simp] theorem State.emit_subtab (s : State) (e : Event) : (s.emit e).subtab = s.subtab := rfl
@[simp] theorem State.emit_msg (s : State) (e : Event) : (s.emit e).msg = s.msg := rfl
@[simp] theorem State.emit_rq (s : State) (e : Event) : (s.emit e).rq = s.rq := rfl
@[simp] theorem State.emit_trace (s : State) (e : Event) : (s.emit e).trace = s.trace ++ [e] := rfl
@[simp] theorem State.emit_inputs (s : State) (e : Event) : (s.emit e).inputs = s.inputs := rfl

/-! `State.diag` -/

@[simp] theorem State.diag_cap (s : State) (e : DiagEvent) : (s.diag e).cap = s.cap := rfl
@[simp] theorem State.diag_busy (s : State) (e : DiagEvent) : (s.diag e).busy = s.busy := rfl
@[simp] theorem State.diag_mode (s : State) (e : DiagEvent) : (s.diag e).mode = s.mode := rfl
@[simp] theorem State.diag_desc (s : State) (e : DiagEvent) : (s.diag e).desc = s.desc := rfl
@[simp] theorem State.diag_v (s : State) (e : DiagEvent) : (s.diag e).v = s.v := rfl
@[simp] theorem State.diag_fi (s : State) (e : DiagEvent) : (s.diag e).fi = s.fi := rfl
@[simp] theorem State.diag_off (s : State) (e : DiagEvent) : (s.diag e).off = s.off := rfl
@[simp] theorem State.diag_size (s : State) (e : DiagEvent) : (s.diag e).size = s.size := rfl
@[simp] theorem State.diag_buf (s : State) (e : DiagEvent) : (s.diag e).buf = s.buf := rfl
@[simp] theorem State.diag_status (s : State) (e : DiagEvent) : (s.diag e).status = s.status := rfl
@[simp] theorem State.diag_allocs (s : State) (e : DiagEvent) : (s.diag e).allocs = s.allocs := rfl
@[simp] theorem State.diag_conn (s : State) (e : DiagEvent) : (s.diag e).conn = s.conn := rfl
@[simp] theorem State.diag_subtab (s : State) (e : DiagEvent) : (s.diag e).subtab = s.subtab := rfl
@[simp] theorem State.diag_msg (s : State) (e : DiagEvent) : (s.diag e).msg = s.msg := rfl
@[simp] theorem State.diag_rq (s : State) (e : DiagEvent) : (s.diag e).rq = s.rq := rfl
@[simp] theorem State.diag_trace (s : State) (e : DiagEvent) : (s.diag e).trace = s.trace ++ [.diag e] := rfl
@[simp] theorem State.diag_inputs (s : State) (e : DiagEvent) : (s.diag e).inputs = s.inputs := rfl

/-! `State.notify` -/

@[simp] theorem State.notify_cap (s : State) (e : LifeEvent) : (s.notify e).cap = s.cap := rfl
@[simp] theorem State.notify_busy (s : State) (e : LifeEvent) : (s.notify e).busy = s.busy := rfl
@[simp] theorem State.notify_mode (s : State) (e : LifeEvent) : (s.notify e).mode = s.mode := rfl
@[simp] theorem State.notify_desc (s : State) (e : LifeEvent) : (s.notify e).desc = s.desc := rfl
@[simp] theorem State.notify_v (s : State) (e : LifeEvent) : (s.notify e).v = s.v := rfl
@[simp] theorem State.notify_fi (s : State) (e : LifeEvent) : (s.notify e).fi = s.fi := rfl
@[simp] theorem State.notify_off (s : State) (e : LifeEvent) : (s.notify e).off = s.off := rfl
@[simp] theorem State.notify_size (s : State) (e : LifeEvent) : (s.notify e).size = s.size := rfl
@[simp] theorem State.notify_buf (s : State) (e : LifeEvent) : (s.notify e).buf = s.buf := rfl
@[simp] theorem State.notify_status (s : State) (e : LifeEvent) : (s.notify e).status = s.status := rfl
@[simp] theorem State.notify_allocs (s : State) (e : LifeEvent) : (s.notify e).allocs = s.allocs := rfl
@[simp] theorem State.notify_conn (s : State) (e : LifeEvent) : (s.notify e).conn = s.conn := rfl
@[simp] theorem State.notify_subtab (s : State) (e : LifeEvent) : (s.notify e).subtab = s.subtab := rfl
@[simp] theorem State.notify_msg (s : State) (e : LifeEvent) : (s.notify e).msg = s.msg := rfl
@[simp] theorem State.notify_rq (s : State) (e : LifeEvent) : (s.notify e).rq = s.rq := rfl
@[simp] theorem State.notify_trace (s : State) (e : LifeEvent) : (s.notify e).trace = s.trace ++ [.life e] := rfl
@[simp] theorem State.notify_inputs (s : State) (e : LifeEvent) : (s.notify e).inputs = s.inputs := rfl

/-! `State.transportSend` -/

@[simp] theorem State.transportSend_cap (s : State) (b : Bytes) : (s.transportSend b).cap = s.cap := rfl
@[simp] theorem State.transportSend_busy (s : State) (b : Bytes) : (s.transportSend b).busy = s.busy := rfl
@[simp] theorem State.transportSend_mode (s : State) (b : Bytes) : (s.transportSend b).mode = s.mode := rfl
@[simp] theorem State.transportSend_desc (s : State) (b : Bytes) : (s.transportSend b).desc = s.desc := rfl
@[simp] theorem State.transportSend_v (s : State) (b : Bytes) : (s.transportSend b).v = s.v := rfl
@[simp] theorem State.transportSend_fi (s : State) (b : Bytes) : (s.transportSend b).fi = s.fi := rfl
@[simp] theorem State.transportSend_off (s : State) (b : Bytes) : (s.transportSend b).off = s.off := rfl
@[simp] theorem State.transportSend_size (s : State) (b : Bytes) : (s.transportSend b).size = s.size := rfl
@[simp] theorem State.transportSend_buf (s : State) (b : Bytes) : (s.transportSend b).buf = s.buf := rfl
@[simp] theorem State.transportSend_status (s : State) (b : Bytes) : (s.transportSend b).status = s.status := rfl
@[simp] theorem State.transportSend_allocs (s : State) (b : Bytes) : (s.transportSend b).allocs = s.allocs := rfl
@[simp] theorem State.transportSend_conn (s : State) (b : Bytes) : (s.transportSend b).conn = s.conn := rfl
@[simp] theorem State.transportSend_subtab (s : State) (b : Bytes) : (s.transportSend b).subtab = s.subtab := rfl
@[simp] theorem State.transportSend_msg (s : State) (b : Bytes) : (s.transportSend b).msg = s.msg := rfl
@[simp] theorem State.transportSend_rq (s : State) (b : Bytes) : (s.transportSend b).rq = s.rq := rfl
@[simp] theorem State.transportSend_trace (s : State) (b : Bytes) :
    (s.transportSend b).trace = s.trace ++ [.tout b] := rfl
@[simp] theorem State.transportSend_inputs (s : State) (b : Bytes) : (s.transportSend b).inputs = s.inputs := rfl

/-! `State.deliverAll` -/

@[simp] theorem State.deliverAll_cap (s : State) (l : List Config.SinkId) (slot : Slot) (t : Byte) (p : Bytes) :
    (s.deliverAll l slot t p).cap = s.cap := rfl
@[simp] theorem State.deliverAll_busy (s : State) (l : List Config.SinkId) (slot : Slot) (t : Byte) (p : Bytes) :
    (s.deliverAll l slot t p).busy = s.busy := rfl
@[simp] theorem State.deliverAll_mode (s : State) (l : List Config.SinkId) (slot : Slot) (t : Byte) (p : Bytes) :
    (s.deliverAll l slot t p).mode = s.mode := rfl
@[simp] theorem State.deliverAll_desc (s : State) (l : List Config.SinkId) (slot : Slot) (t : Byte) (p : Bytes) :
    (s.deliverAll l slot t p).desc = s.desc := rfl
@[simp] theorem State.deliverAll_v (s : State) (l : List Config.SinkId) (slot : Slot) (t : Byte) (p : Bytes) :
    (s.deliverAll l slot t p).v = s.v := rfl
@[simp] theorem State.deliverAll_fi (s : State) (l : List Config.SinkId) (slot : Slot) (t : Byte) (p : Bytes) :
    (s.deliverAll l slot t p).fi = s.fi := rfl
@[simp] theorem State.deliverAll_off (s : State) (l : List Config.SinkId) (slot : Slot) (t : Byte) (p : Bytes) :
    (s.deliverAll l slot t p).off = s.off := rfl
@[simp] theorem State.deliverAll_size (s : State) (l : List Config.SinkId) (slot : Slot) (t : Byte) (p : Bytes) :
    (s.deliverAll l slot t p).size = s.size := rfl
@[simp] theorem State.deliverAll_buf (s : State) (l : List Config.SinkId) (slot : Slot) (t : Byte) (p : Bytes) :
    (s.deliverAll l slot t p).buf = s.buf := rfl
@[simp] theorem State.deliverAll_status (s : State) (l : List Config.SinkId) (slot : Slot) (t : Byte) (p : Bytes) :
    (s.deliverAll l slot t p).status = s.status := rfl
@[simp] theorem State.deliverAll_allocs (s : State) (l : List Config.SinkId) (slot : Slot) (t : Byte) (p : Bytes) :
    (s.deliverAll l slot t p).allocs = s.allocs := rfl
@[simp] theorem State.deliverAll_conn (s : State) (l : List Config.SinkId) (slot : Slot) (t : Byte) (p : Bytes) :
    (s.deliverAll l slot t p).conn = s.conn := rfl
@[simp] theorem State.deliverAll_subtab (s : State) (l : List Config.SinkId) (slot : Slot) (t : Byte) (p : Bytes) :
    (s.deliverAll l slot t p).subtab = s.subtab := rfl
@[simp] theorem State.deliverAll_msg (s : State) (l : List Config.SinkId) (slot : Slot) (t : Byte) (p : Bytes) :
    (s.deliverAll l slot t p).msg = s.msg := rfl
@[simp] theorem State.deliverAll_rq (s : State) (l : List Config.SinkId) (slot : Slot) (t : Byte) (p : Bytes) :
    (s.deliverAll l slot t p).rq = s.rq := rfl
@[simp] theorem State.deliverAll_trace (s : State) (l : List Config.SinkId) (slot : Slot) (t : Byte) (p : Bytes) :
    (s.deliverAll l slot t p).trace = s.trace ++ l.map (fun x => .sink ⟨x, slot, t, p⟩) := rfl
@[simp] theorem State.deliverAll_inputs (s : State) (l : List Config.SinkId) (slot : Slot) (t : Byte) (p : Bytes) :
    (s.deliverAll l slot t p).inputs = s.inputs := rfl

/-! `State.setConn` -/

@[simp] theorem State.setConn_cap (s : State) (c : Bool) : (s.setConn c).cap = s.cap := rfl
@[simp] theorem State.setConn_busy (s : State) (c : Bool) : (s.setConn c).busy = s.busy := rfl
@[simp] theorem State.setConn_mode (s : State) (c : Bool) : (s.setConn c).mode = s.mode := rfl
@[simp] theorem State.setConn_desc (s : State) (c : Bool) : (s.setConn c).desc = s.desc := rfl
@[simp] theorem State.setConn_v (s : State) (c : Bool) : (s.setConn c).v = s.v := rfl
@[simp] theorem State.setConn_fi (s : State) (c : Bool) : (s.setConn c).fi = s.fi := rfl
@[simp] theorem State.setConn_off (s : State) (c : Bool) : (s.setConn c).off = s.off := rfl
@[simp] theorem State.setConn_size (s : State) (c : Bool) : (s.setConn c).size = s.size := rfl
@[simp] theorem State.setConn_buf (s : State) (c : Bool) : (s.setConn c).buf = s.buf := rfl
@[simp] theorem State.setConn_status (s : State) (c : Bool) : (s.setConn c).status = s.status := rfl
@[simp] theorem State.setConn_allocs (s : State) (c : Bool) : (s.setConn c).allocs = s.allocs := rfl
@[simp] theorem State.setConn_conn (s : State) (c : Bool) : (s.setConn c).conn = c := rfl
@[simp] theorem State.setConn_subtab (s : State) (c : Bool) : (s.setConn c).subtab = s.subtab := rfl
@[simp] theorem State.setConn_msg (s : State) (c : Bool) : (s.setConn c).msg = s.msg := rfl
@[simp] theorem State.setConn_rq (s : State) (c : Bool) : (s.setConn c).rq = s.rq := rfl
@[simp] theorem State.setConn_trace (s : State) (c : Bool) : (s.setConn c).trace = s.trace := rfl
@[simp] theorem State.setConn_inputs (s : State) (c : Bool) : (s.setConn c).inputs = s.inputs := rfl

/-! `State.setRow` -/

@[simp] theorem State.setRow_cap (s : State) (slot : Slot) (l : List Config.SinkId) :
    (s.setRow slot l).cap = s.cap := rfl
@[simp] theorem State.setRow_busy (s : State) (slot : Slot) (l : List Config.SinkId) :
    (s.setRow slot l).busy = s.busy := rfl
@[simp] theorem State.setRow_mode (s : State) (slot : Slot) (l : List Config.SinkId) :
    (s.setRow slot l).mode = s.mode := rfl
@[simp] theorem State.setRow_desc (s : State) (slot : Slot) (l : List Config.SinkId) :
    (s.setRow slot l).desc = s.desc := rfl
@[simp] theorem State.setRow_v (s : State) (slot : Slot) (l : List Config.SinkId) : (s.setRow slot l).v = s.v := rfl
@[simp] theorem State.setRow_fi (s : State) (slot : Slot) (l : List Config.SinkId) : (s.setRow slot l).fi = s.fi := rfl
@[simp] theorem State.setRow_off (s : State) (slot : Slot) (l : List Config.SinkId) :
    (s.setRow slot l).off = s.off := rfl
@[simp] theorem State.setRow_size (s : State) (slot : Slot) (l : List Config.SinkId) :
    (s.setRow slot l).size = s.size := rfl
@[simp] theorem State.setRow_buf (s : State) (slot : Slot) (l : List Config.SinkId) :
    (s.setRow slot l).buf = s.buf := rfl
@[simp] theorem State.setRow_status (s : State) (slot : Slot) (l : List Config.SinkId) :
    (s.setRow slot l).status = s.status := rfl
@[simp] theorem State.setRow_allocs (s : State) (slot : Slot) (l : List Config.SinkId) :
    (s.setRow slot l).allocs = s.allocs := rfl
@[simp] theorem State.setRow_conn (s : State) (slot : Slot) (l : List Config.SinkId) :
    (s.setRow slot l).conn = s.conn := rfl
@[simp] theorem State.setRow_subtab (s : State) (slot : Slot) (l : List Config.SinkId) :
    (s.setRow slot l).subtab = s.subtab.setRow slot l := rfl
@[simp] theorem State.setRow_msg (s : State) (slot : Slot) (l : List Config.SinkId) :
    (s.setRow slot l).msg = s.msg := rfl
@[simp] theorem State.setRow_rq (s : State) (slot : Slot) (l : List Config.SinkId) : (s.setRow slot l).rq = s.rq := rfl
@[simp] theorem State.setRow_trace (s : State) (slot : Slot) (l : List Config.SinkId) :
    (s.setRow slot l).trace = s.trace := rfl
@[simp] theorem State.setRow_inputs (s : State) (slot : Slot) (l : List Config.SinkId) :
    (s.setRow slot l).inputs = s.inputs := rfl

/-! `State.holdMessage` -/

@[simp] theorem State.holdMessage_cap (s : State) (m : Bytes) : (s.holdMessage m).cap = s.cap := rfl
@[simp] theorem State.holdMessage_busy (s : State) (m : Bytes) : (s.holdMessage m).busy = s.busy := rfl
@[simp] theorem State.holdMessage_mode (s : State) (m : Bytes) : (s.holdMessage m).mode = s.mode := rfl
@[simp] theorem State.holdMessage_desc (s : State) (m : Bytes) : (s.holdMessage m).desc = s.desc := rfl
@[simp] theorem State.holdMessage_v (s : State) (m : Bytes) : (s.holdMessage m).v = s.v := rfl
@[simp] theorem State.holdMessage_fi (s : State) (m : Bytes) : (s.holdMessage m).fi = s.fi := rfl
@[simp] theorem State.holdMessage_off (s : State) (m : Bytes) : (s.holdMessage m).off = s.off := rfl
@[simp] theorem State.holdMessage_size (s : State) (m : Bytes) : (s.holdMessage m).size = s.size := rfl
@[simp] theorem State.holdMessage_buf (s : State) (m : Bytes) : (s.holdMessage m).buf = s.buf := rfl
@[simp] theorem State.holdMessage_status (s : State) (m : Bytes) : (s.holdMessage m).status = s.status := rfl
@[simp] theorem State.holdMessage_allocs (s : State) (m : Bytes) : (s.holdMessage m).allocs = s.allocs := rfl
@[simp] theorem State.holdMessage_conn (s : State) (m : Bytes) : (s.holdMessage m).conn = s.conn := rfl
@[simp] theorem State.holdMessage_subtab (s : State) (m : Bytes) : (s.holdMessage m).subtab = s.subtab := rfl
@[simp] theorem State.holdMessage_msg (s : State) (m : Bytes) : (s.holdMessage m).msg = some m := rfl
@[simp] theorem State.holdMessage_rq (s : State) (m : Bytes) : (s.holdMessage m).rq = s.rq := rfl
@[simp] theorem State.holdMessage_trace (s : State) (m : Bytes) : (s.holdMessage m).trace = s.trace := rfl
@[simp] theorem State.holdMessage_inputs (s : State) (m : Bytes) : (s.holdMessage m).inputs = s.inputs := rfl

/-! `State.dropMessage` -/

@[simp] theorem State.dropMessage_cap (s : State) : (s.dropMessage).cap = s.cap := rfl
@[simp] theorem State.dropMessage_busy (s : State) : (s.dropMessage).busy = s.busy := rfl
@[simp] theorem State.dropMessage_mode (s : State) : (s.dropMessage).mode = s.mode := rfl
@[simp] theorem State.dropMessage_desc (s : State) : (s.dropMessage).desc = s.desc := rfl
@[simp] theorem State.dropMessage_v (s : State) : (s.dropMessage).v = s.v := rfl
@[simp] theorem State.dropMessage_fi (s : State) : (s.dropMessage).fi = s.fi := rfl
@[simp] theorem State.dropMessage_off (s : State) : (s.dropMessage).off = s.off := rfl
@[simp] theorem State.dropMessage_size (s : State) : (s.dropMessage).size = s.size := rfl
@[simp] theorem State.dropMessage_buf (s : State) : (s.dropMessage).buf = s.buf := rfl
@[simp] theorem State.dropMessage_status (s : State) : (s.dropMessage).status = s.status := rfl
@[simp] theorem State.dropMessage_allocs (s : State) : (s.dropMessage).allocs = s.allocs := rfl
@[simp] theorem State.dropMessage_conn (s : State) : (s.dropMessage).conn = s.conn := rfl
@[simp] theorem State.dropMessage_subtab (s : State) : (s.dropMessage).subtab = s.subtab := rfl
@[simp] theorem State.dropMessage_msg (s : State) : (s.dropMessage).msg = none := rfl
@[simp] theorem State.dropMessage_rq (s : State) : (s.dropMessage).rq = s.rq := rfl
@[simp] theorem State.dropMessage_trace (s : State) : (s.dropMessage).trace = s.trace := rfl
@[simp] theorem State.dropMessage_inputs (s : State) : (s.dropMessage).inputs = s.inputs := rfl

/-! `State.setRq` -/

@[simp] theorem State.setRq_cap (s : State) (l : List Request) : (s.setRq l).cap = s.cap := rfl
@[simp] theorem State.setRq_busy (s : State) (l : List Request) : (s.setRq l).busy = s.busy := rfl
@[simp] theorem State.setRq_mode (s : State) (l : List Request) : (s.setRq l).mode = s.mode := rfl
@[simp] theorem State.setRq_desc (s : State) (l : List Request) : (s.setRq l).desc = s.desc := rfl
@[simp] theorem State.setRq_v (s : State) (l : List Request) : (s.setRq l).v = s.v := rfl
@[simp] theorem State.setRq_fi (s : State) (l : List Request) : (s.setRq l).fi = s.fi := rfl
@[simp] theorem State.setRq_off (s : State) (l : List Request) : (s.setRq l).off = s.off := rfl
@[simp] theorem State.setRq_size (s : State) (l : List Request) : (s.setRq l).size = s.size := rfl
@[simp] theorem State.setRq_buf (s : State) (l : List Request) : (s.setRq l).buf = s.buf := rfl
@[simp] theorem State.setRq_status (s : State) (l : List Request) : (s.setRq l).status = s.status := rfl
@[simp] theorem State.setRq_allocs (s : State) (l : List Request) : (s.setRq l).allocs = s.allocs := rfl
@[simp] theorem State.setRq_conn (s : State) (l : List Request) : (s.setRq l).conn = s.conn := rfl
@[simp] theorem State.setRq_subtab (s : State) (l : List Request) : (s.setRq l).subtab = s.subtab := rfl
@[simp] theorem State.setRq_msg (s : State) (l : List Request) : (s.setRq l).msg = s.msg := rfl
@[simp] theorem State.setRq_rq (s : State) (l : List Request) : (s.setRq l).rq = l := rfl
@[simp] theorem State.setRq_trace (s : State) (l : List Request) : (s.setRq l).trace = s.trace := rfl
@[simp] theorem State.setRq_inputs (s : State) (l : List Request) : (s.setRq l).inputs = s.inputs := rfl

/-! `State.setInputs` -/

@[simp] theorem State.setInputs_cap (s : State) (l : List Input) : (s.setInputs l).cap = s.cap := rfl
@[simp] theorem State.setInputs_busy (s : State) (l : List Input) : (s.setInputs l).busy = s.busy := rfl
@[simp] theorem State.setInputs_mode (s : State) (l : List Input) : (s.setInputs l).mode = s.mode := rfl
@[simp] theorem State.setInputs_desc (s : State) (l : List Input) : (s.setInputs l).desc = s.desc := rfl
@[simp] theorem State.setInputs_v (s : State) (l : List Input) : (s.setInputs l).v = s.v := rfl
@[simp] theorem State.setInputs_fi (s : State) (l : List Input) : (s.setInputs l).fi = s.fi := rfl
@[simp] theorem State.setInputs_off (s : State) (l : List Input) : (s.setInputs l).off = s.off := rfl
@[simp] theorem State.setInputs_size (s : State) (l : List Input) : (s.setInputs l).size = s.size := rfl
@[simp] theorem State.setInputs_buf (s : State) (l : List Input) : (s.setInputs l).buf = s.buf := rfl
@[simp] theorem State.setInputs_status (s : State) (l : List Input) : (s.setInputs l).status = s.status := rfl
@[simp] theorem State.setInputs_allocs (s : State) (l : List Input) : (s.setInputs l).allocs = s.allocs := rfl
@[simp] theorem State.setInputs_conn (s : State) (l : List Input) : (s.setInputs l).conn = s.conn := rfl
@[simp] theorem State.setInputs_subtab (s : State) (l : List Input) : (s.setInputs l).subtab = s.subtab := rfl
@[simp] theorem State.setInputs_msg (s : State) (l : List Input) : (s.setInputs l).msg = s.msg := rfl
@[simp] theorem State.setInputs_rq (s : State) (l : List Input) : (s.setInputs l).rq = s.rq := rfl
@[simp] theorem State.setInputs_trace (s : State) (l : List Input) : (s.setInputs l).trace = s.trace := rfl
@[simp] theorem State.setInputs_inputs (s : State) (l : List Input) : (s.setInputs l).inputs = l := rfl

/-! `State.raise` -/

@[simp] theorem State.raise_cap (s : State) (e : CodecError) : (s.raise e).cap = s.cap := rfl
@[simp] theorem State.raise_busy (s : State) (e : CodecError) : (s.raise e).busy = false := rfl
@[simp] theorem State.raise_mode (s : State) (e : CodecError) : (s.raise e).mode = s.mode := rfl
@[simp] theorem State.raise_desc (s : State) (e : CodecError) : (s.raise e).desc = s.desc := rfl
@[simp] theorem State.raise_v (s : State) (e : CodecError) : (s.raise e).v = s.v := rfl
@[simp] theorem State.raise_fi (s : State) (e : CodecError) : (s.raise e).fi = s.fi := rfl
@[simp] theorem State.raise_off (s : State) (e : CodecError) : (s.raise e).off = s.off := rfl
@[simp] theorem State.raise_size (s : State) (e : CodecError) : (s.raise e).size = s.size := rfl
@[simp] theorem State.raise_buf (s : State) (e : CodecError) : (s.raise e).buf = s.buf := rfl
@[simp] theorem State.raise_status (s : State) (e : CodecError) : (s.raise e).status = .error e := rfl
@[simp] theorem State.raise_allocs (s : State) (e : CodecError) : (s.raise e).allocs = s.allocs := rfl
@[simp] theorem State.raise_conn (s : State) (e : CodecError) : (s.raise e).conn = s.conn := rfl
@[simp] theorem State.raise_subtab (s : State) (e : CodecError) : (s.raise e).subtab = s.subtab := rfl
@[simp] theorem State.raise_msg (s : State) (e : CodecError) : (s.raise e).msg = s.msg := rfl
@[simp] theorem State.raise_rq (s : State) (e : CodecError) : (s.raise e).rq = s.rq := rfl
@[simp] theorem State.raise_trace (s : State) (e : CodecError) :
    (s.raise e).trace = s.trace ++ [.codec (.failed e)] := rfl
@[simp] theorem State.raise_inputs (s : State) (e : CodecError) : (s.raise e).inputs = s.inputs := rfl

/-! `finishOperation` -/

@[simp] theorem finishOperation_cap (s : State) : (finishOperation s).cap = s.cap := rfl
@[simp] theorem finishOperation_busy (s : State) : (finishOperation s).busy = false := rfl
@[simp] theorem finishOperation_mode (s : State) : (finishOperation s).mode = s.mode := rfl
@[simp] theorem finishOperation_desc (s : State) : (finishOperation s).desc = s.desc := rfl
@[simp] theorem finishOperation_v (s : State) : (finishOperation s).v = s.v := rfl
@[simp] theorem finishOperation_fi (s : State) : (finishOperation s).fi = s.fi := rfl
@[simp] theorem finishOperation_off (s : State) : (finishOperation s).off = s.off := rfl
@[simp] theorem finishOperation_size (s : State) : (finishOperation s).size = s.size := rfl
@[simp] theorem finishOperation_buf (s : State) : (finishOperation s).buf = s.buf := rfl
@[simp] theorem finishOperation_status (s : State) : (finishOperation s).status = .ok := rfl
@[simp] theorem finishOperation_allocs (s : State) : (finishOperation s).allocs = s.allocs := rfl
@[simp] theorem finishOperation_conn (s : State) : (finishOperation s).conn = s.conn := rfl
@[simp] theorem finishOperation_subtab (s : State) : (finishOperation s).subtab = s.subtab := rfl
@[simp] theorem finishOperation_msg (s : State) : (finishOperation s).msg = s.msg := rfl
@[simp] theorem finishOperation_rq (s : State) : (finishOperation s).rq = s.rq := rfl
@[simp] theorem finishOperation_trace (s : State) :
    (finishOperation s).trace = s.trace ++ [.codec (match s.mode with | .encode => .encoded s.buf | .decode => .decoded s.v)] := rfl
@[simp] theorem finishOperation_inputs (s : State) : (finishOperation s).inputs = s.inputs := rfl

/-! `SubTab` -/

@[simp] theorem SubTab.row_setRow_same (t : SubTab) (slot : Slot) (l : List Config.SinkId) :
    (t.setRow slot l).row slot = l := by cases slot <;> rfl

theorem SubTab.row_setRow_other (t : SubTab) {slot other : Slot} (l : List Config.SinkId) (h : other ≠ slot) :
    (t.setRow slot l).row other = t.row other := by cases slot <;> cases other <;> first | rfl | exact absurd rfl h

@[simp] theorem SubTab.row_empty (slot : Slot) : SubTab.empty.row slot = [] := by cases slot <;> rfl

end Sys2Proof.Machine
end

