-- ==== Sys2Proof/Laws/MicroOps.lean ====
section
/-! SUPPORT. What a micro-operation does, said once: `exec_encode_iff` for the ten `ENC`, `exec_decode_iff` for the
ten `DEC`. Later proofs cite these and do not unfold a meaning. -/

namespace Sys2Proof.Machine

open Sys2Proof Sys2Proof.Safety

/-! ## Tags -/

@[simp] theorem Tag.ofCode_code (t : Tag) : Tag.ofCode t.code = some t := by cases t <;> rfl

theorem Tag.ofCode_eq_some_iff (c : TagCode) (t : Tag) : Tag.ofCode c = some t ↔ c = t.code := by
  revert c t
  have : ∀ c : TagCode, ∀ t ∈ [Tag.int8, .uint8, .int16, .uint16, .int32, .uint32, .int64, .uint64, .float32, .rawTail],
      Tag.ofCode c = some t ↔ c = t.code := by decide
  intro c t
  exact this c t (by cases t <;> simp)

theorem decodeUop_uopKey (m : Mode) (c : TagCode) :
    decodeUop (uopKey m c) =
      match Tag.ofCode c with
      | none => .error (.unknownTag c)
      | some t => .ok (microOp m t) := by
  have h1 : (uopKey m c).extractLsb' 0 4 = c := by
    revert c; cases m <;> decide
  have h2 : Mode.ofBit ((uopKey m c).getLsbD 4) = m := by
    revert c; cases m <;> decide
  cases ht : Tag.ofCode c <;> simp only [decodeUop, h1, h2, ht]

/-! ## Values -/

theorem cls_num {x : Value} (h : x.cls = .num) : ∃ w, x = .num w := by
  cases x <;> simp_all [Value.cls]

theorem cls_big {x : Value} (h : x.cls = .big) : ∃ q, x = .big q := by
  cases x <;> simp_all [Value.cls]

theorem cls_bytes {x : Value} (h : x.cls = .bytes) : ∃ b, x = .bytes b := by
  cases x <;> simp_all [Value.cls]

/-- The bytes of a field are as many as the field's size, when the class is the tag's. -/
theorem fieldBytes_length (t : Tag) (x : Value) (h : x.cls = classOf t) :
    (fieldBytes t x).length = fieldSize t x := by
  cases t <;> cases x <;> simp_all [fieldBytes, fieldSize, Value.cls, classOf]

theorem canonical_int32 (w : BitVec 32) : canonical .int32 (.num w) = true := by
  have h := BitVec.toInt_lt (x := w)
  have h' := BitVec.le_toInt w
  simp [canonical, intOf, range]
  omega

theorem canonical_uint32 (w : BitVec 32) : canonical .uint32 (.num w) = true := by
  have h := w.isLt
  simp [canonical, intOf, range]
  omega

theorem canonical_float32 (x : Value) : canonical .float32 x = true := by cases x <;> rfl

theorem canonical_rawTail (x : Value) : canonical .rawTail x = true := by cases x <;> rfl

theorem canonical_int64 (q : BitVec 64) : canonical .int64 (.big q) = true := by
  have h := BitVec.toInt_lt (x := q)
  have h' := BitVec.le_toInt q
  simp [canonical, intOf, range]
  omega

theorem canonical_uint64 (q : BitVec 64) : canonical .uint64 (.big q) = true := by
  have h := q.isLt
  simp [canonical, intOf, range]
  omega

/-! ## The shared shapes -/

theorem storeField_eq (s : State) (bs : Bytes) :
    storeField s bs =
      if s.off + bs.length ≤ s.buf.length then .next (afterStore s bs) else .fault .outsideBuffer := by
  unfold storeField writeBytes
  split <;> rename_i h <;> split at h <;> simp_all [afterStore, State.advance, State.setBuf]

theorem loadSlot_eq (s : State) (n : Nat) (x : Value) :
    loadSlot s n x = if s.fi < s.v.length then .next (afterLoad s n x) else .fault .noSlot := rfl

/-! ## The ten ENC -/

/-- Every `ENC`, on a slot whose value fits the field, stores the field's bytes or faults outside the buffer. -/
theorem exec_encode_of_slot {tag : Tag} {s : State} {x : Value} (hx : s.v[s.fi]? = some x) (hc : x.cls = classOf tag)
    (hk : canonical tag x = true) : exec (microOp .encode tag) s = storeField s (fieldBytes tag x) := by
  cases tag <;>
    simp only [classOf] at hc <;>
    first
    | (obtain ⟨w, rfl⟩ := cls_num hc
       simp [microOp, exec, execEncInt8, execEncUint8, execEncInt16, execEncUint16, execEncInt32, execEncUint32,
         execEncFloat32, storeNum, hx, hk, fieldBytes, width])
    | (obtain ⟨q, rfl⟩ := cls_big hc
       simp [microOp, exec, execEncInt64, execEncUint64, storeBig, hx, fieldBytes, width])
    | (obtain ⟨b, rfl⟩ := cls_bytes hc
       simp [microOp, exec, execEncRawTail, storeRaw, hx, fieldBytes])

/-- All an `ENC` can do when it answers a next state. -/
theorem exec_encode_iff (tag : Tag) (s t : State) :
    exec (microOp .encode tag) s = .next t ↔
      ∃ x, s.v[s.fi]? = some x ∧ x.cls = classOf tag ∧ canonical tag x = true ∧
        s.off + fieldSize tag x ≤ s.buf.length ∧ t = afterStore s (fieldBytes tag x) := by
  constructor
  · intro h
    have hx : ∃ x, s.v[s.fi]? = some x ∧ x.cls = classOf tag ∧ canonical tag x = true := by
      cases hv : s.v[s.fi]? with
      | none => cases tag <;> simp [microOp, exec, execEncInt8, execEncUint8, execEncInt16, execEncUint16,
          execEncInt32, execEncUint32, execEncInt64, execEncUint64, execEncFloat32, execEncRawTail, storeNum, storeBig,
          storeRaw, hv] at h
      | some x =>
        refine ⟨x, rfl, ?_⟩
        cases tag <;> cases x <;> simp [microOp, exec, execEncInt8, execEncUint8, execEncInt16, execEncUint16,
          execEncInt32, execEncUint32, execEncInt64, execEncUint64, execEncFloat32, execEncRawTail, storeNum, storeBig,
          storeRaw, hv] at h <;>
        simp [Value.cls, classOf, canonical_int64, canonical_uint64, canonical_rawTail] <;>
        (split at h <;> simp_all)
    obtain ⟨x, hx, hc, hk⟩ := hx
    rw [exec_encode_of_slot hx hc hk, storeField_eq, fieldBytes_length tag x hc] at h
    split at h
    · exact ⟨x, hx, hc, hk, ‹_›, by simpa using h.symm⟩
    · cases h
  · rintro ⟨x, hx, hc, hk, hb, rfl⟩
    rw [exec_encode_of_slot hx hc hk, storeField_eq, fieldBytes_length tag x hc, if_pos hb]

/-! ## The ten DEC -/

/-- The bytes a `DEC` takes: the tag's width, or for `rawTail` the rest of the buffer. -/
def loadSize (tag : Tag) (s : State) : Nat :=
  if tag = .rawTail then s.buf.length - s.off else width tag

/-- Every `DEC`, where its bytes lie in the buffer, writes the field's value to the slot or faults without one. -/
theorem exec_decode_of_bytes {tag : Tag} {s : State} (h : s.off + width tag ≤ s.buf.length) :
    exec (microOp .decode tag) s = loadSlot s (loadSize tag s) (fieldValue tag (s.buf.drop s.off)) := by
  cases tag <;> simp only [width] at h <;>
    simp [microOp, exec, execDecInt8, execDecUint8, execDecInt16, execDecUint16, execDecInt32, execDecUint32,
      execDecInt64, execDecUint64, execDecFloat32, execDecRawTail, loadFixed, loadRaw, memRead, h, fieldValue, loadSize,
      width]
  · intro h'; omega

/-- All a `DEC` can do when it answers a next state. -/
theorem exec_decode_iff (tag : Tag) (s t : State) :
    exec (microOp .decode tag) s = .next t ↔
      s.fi < s.v.length ∧ s.off + width tag ≤ s.buf.length ∧
        t = afterLoad s (loadSize tag s) (fieldValue tag (s.buf.drop s.off)) := by
  by_cases h : s.off + width tag ≤ s.buf.length
  · rw [exec_decode_of_bytes h, loadSlot_eq]
    by_cases hf : s.fi < s.v.length <;> simp [h, hf, eq_comm]
  · constructor
    · intro hx
      exfalso
      cases tag <;> simp only [width, Nat.add_zero] at h <;>
        simp [microOp, exec, execDecInt8, execDecUint8, execDecInt16, execDecUint16, execDecInt32, execDecUint32,
          execDecInt64, execDecUint64, execDecFloat32, execDecRawTail, loadFixed, loadRaw, memRead, h] at hx
    · rintro ⟨_, hb, _⟩; exact absurd hb h

end Sys2Proof.Machine
end

