-- ==== Sys2Proof/Laws/Codec.lean ====
section
/-! SUPPORT. What the check phases and the start of an operation do. -/

namespace Sys2Proof.Machine

open Sys2Proof Sys2Proof.Safety

/-- The check phase of `ENCODE` passes exactly when every field has a tag and a value of its class, and then counts
the sizes of the fields. -/
theorem encodeScan_ok_iff (i : Nat) (desc : List TagCode) (vals : List Value) (size n : Nat)
    (hl : desc.length = vals.length) :
    encodeScan i desc vals size = .ok n ↔
      (∀ (j : Nat) c x, desc[j]? = some c → vals[j]? = some x → ∃ t, Tag.ofCode c = some t ∧ x.cls = classOf t) ∧
      n = size + fieldsSize desc vals := by
  induction desc generalizing i vals size with
  | nil =>
    cases vals <;> simp_all [encodeScan, fieldsSize, eq_comm]
  | cons c cs ih =>
    cases vals with
    | nil => simp at hl
    | cons x xs =>
      simp only [List.length_cons, Nat.add_right_cancel_iff] at hl
      cases ht : Tag.ofCode c with
      | none =>
        simp only [encodeScan, ht, reduceCtorEq, false_iff, not_and]
        intro h
        obtain ⟨t, h1, _⟩ := h 0 c x rfl rfl
        simp [ht] at h1
      | some t =>
        by_cases hc : x.cls = classOf t
        · simp only [encodeScan, ht, hc, if_true, ih _ _ _ hl, fieldsSize]
          constructor
          · rintro ⟨h1, rfl⟩
            refine ⟨fun j c' x' h2 h3 => ?_, by omega⟩
            cases j with
            | zero =>
              simp only [List.getElem?_cons_zero, Option.some.injEq] at h2 h3
              subst h2; subst h3; exact ⟨t, ht, hc⟩
            | succ j => exact h1 j c' x' (by simpa using h2) (by simpa using h3)
          · rintro ⟨h1, rfl⟩
            exact ⟨fun j c' x' h2 h3 => h1 (j + 1) c' x' (by simpa using h2) (by simpa using h3), by omega⟩
        · simp only [encodeScan, ht, hc, if_false, reduceCtorEq, false_iff, not_and]
          intro h
          obtain ⟨t', h1, h2⟩ := h 0 c x rfl rfl
          simp only [ht, Option.some.injEq] at h1
          subst h1; exact absurd h2 hc

theorem encodeCheck_ok {desc : List TagCode} {vals : List Value} {n : Nat} (h : encodeCheck desc vals = .ok n) :
    desc.length = vals.length ∧
    (∀ (j : Nat) c x, desc[j]? = some c → vals[j]? = some x → ∃ t, Tag.ofCode c = some t ∧ x.cls = classOf t) ∧
    n = fieldsSize desc vals := by
  unfold encodeCheck at h
  split at h
  · rename_i hl
    obtain ⟨h1, h2⟩ := (encodeScan_ok_iff 0 desc vals 0 n hl).1 h
    exact ⟨hl, h1, by omega⟩
  · cases h

/-- What the scan of `ENCODE` reports at a field whose earlier fields pass: the unknown tag, or the class mismatch. -/
theorem encodeScan_fault (i : Nat) (desc : List TagCode) (vals : List Value) (size k : Nat) (c : TagCode) (x : Value)
    (hc : desc[k]? = some c) (hx : vals[k]? = some x)
    (hp : ∀ j d y, j < k → desc[j]? = some d → vals[j]? = some y → ∃ t, Tag.ofCode d = some t ∧ y.cls = classOf t) :
    (Tag.ofCode c = none → encodeScan i desc vals size = .error (.formatError (.unknownTag (i + k) c))) ∧
    (∀ t, Tag.ofCode c = some t → x.cls ≠ classOf t →
      encodeScan i desc vals size = .error (.typeMismatchError (i + k) t x.cls)) := by
  induction k generalizing i desc vals size with
  | zero => cases desc <;> cases vals <;> simp_all [encodeScan]
  | succ k ih =>
    cases desc with
    | nil => simp at hc
    | cons d ds =>
      cases vals with
      | nil => simp at hx
      | cons y ys =>
        obtain ⟨t, ht, hcl⟩ := hp 0 d y (by omega) rfl rfl
        simp only [encodeScan, ht, hcl, if_true]
        rw [show i + (k + 1) = i + 1 + k by omega]
        exact ih (i + 1) ds ys (size + fieldSize t y) (by simpa using hc) (by simpa using hx)
          fun j d' y' hj h1 h2 => hp (j + 1) d' y' (by omega) (by simpa using h1) (by simpa using h2)

/-- There is no out-of-range field exactly when every lane is canonical for its tag. -/
theorem firstOutOfRange_none_iff (i : Nat) (desc : List TagCode) (vals : List Value) :
    firstOutOfRange i desc vals = none ↔
      ∀ (j : Nat) c x t, desc[j]? = some c → vals[j]? = some x → Tag.ofCode c = some t → canonical t x = true := by
  induction desc generalizing i vals with
  | nil => simp [firstOutOfRange]
  | cons c cs ih =>
    cases vals with
    | nil => simp [firstOutOfRange]
    | cons x xs =>
      cases ht : Tag.ofCode c with
      | none =>
        simp only [firstOutOfRange, ht, ih]
        constructor
        · intro h j c' x' t h1 h2 h3
          cases j with
          | zero => simp only [List.getElem?_cons_zero, Option.some.injEq] at h1; subst h1; simp [ht] at h3
          | succ j => exact h j c' x' t (by simpa using h1) (by simpa using h2) h3
        · intro h j c' x' t h1 h2 h3
          exact h (j + 1) c' x' t (by simpa using h1) (by simpa using h2) h3
      | some t =>
        by_cases hk : canonical t x = true
        · simp only [firstOutOfRange, ht, hk, if_true, ih]
          constructor
          · intro h j c' x' t' h1 h2 h3
            cases j with
            | zero =>
              simp only [List.getElem?_cons_zero, Option.some.injEq] at h1 h2
              subst h1; subst h2
              simp only [ht, Option.some.injEq] at h3; subst h3; exact hk
            | succ j => exact h j c' x' t' (by simpa using h1) (by simpa using h2) h3
          · intro h j c' x' t' h1 h2 h3
            exact h (j + 1) c' x' t' (by simpa using h1) (by simpa using h2) h3
        · simp only [firstOutOfRange, ht, hk]
          simp only [Bool.false_eq_true, if_false, reduceCtorEq, false_iff]
          intro h
          exact hk (h 0 c x t rfl rfl ht)

/-- The check of a `DECODE` descriptor passes exactly when every element is a tag and `rawTail` stands only last; it
counts the fixed widths. -/
theorem decodeScan_ok_iff (i : Nat) (desc : List TagCode) (size n : Nat) :
    decodeScan i desc size = .ok n ↔
      (∀ c ∈ desc, (Tag.ofCode c).isSome = true) ∧ rawOnlyLast desc = true ∧ n = size + fixedSize desc := by
  induction desc generalizing i size with
  | nil => simpa [decodeScan, rawOnlyLast, fixedSize] using eq_comm
  | cons c cs ih =>
    cases ht : Tag.ofCode c with
    | none => simp [decodeScan, ht]
    | some t =>
      simp only [decodeScan, ht, rawOnlyLast, fixedSize, List.mem_cons, forall_eq_or_imp, Option.isSome_some, true_and]
      by_cases hr : t = .rawTail ∧ cs ≠ []
      · rw [if_pos hr]
        obtain ⟨rfl, hne⟩ := hr
        simp [hne]
      · rw [if_neg hr, ih]
        have : ((some t != some Tag.rawTail) || cs.isEmpty) = true := by
          by_cases h1 : t = .rawTail
          · subst h1; simp_all
          · simp [h1]
        simp only [this, Bool.true_and]
        refine and_congr_right fun _ => and_congr_right fun _ => ?_
        omega

theorem decodeCheck_ok {desc : List TagCode} {len n : Nat} (h : decodeCheck desc len = .ok n) :
    (∀ c ∈ desc, (Tag.ofCode c).isSome = true) ∧ rawOnlyLast desc = true ∧ n = fixedSize desc ∧ n ≤ len := by
  unfold decodeCheck at h
  split at h
  · cases h
  · rename_i m hm
    obtain ⟨h1, h2, h3⟩ := (decodeScan_ok_iff 0 desc 0 m).1 hm
    split at h
    · cases h
    · cases h; exact ⟨h1, h2, by omega, by omega⟩

/-! ## The start of an operation -/

/-- All the start of an `ENCODE` can do when it answers a next state: raise the error of a failed check, or load the
registers. -/
theorem startEncode_next {s t : State} {desc : List TagCode} {vals : List Value}
    (h : startEncode desc vals s = .next t) :
    (∃ e, encodeCheck desc vals = .error e ∧ t = s.raise e) ∨
    (∃ size, encodeCheck desc vals = .ok size ∧ firstOutOfRange 0 desc vals = none ∧
      t = s.beginOperation .encode desc vals size (freshBuf s.allocs size)) := by
  unfold startEncode at h
  split at h
  · split at h
    · split at h
      · rename_i e he
        exact .inl ⟨e, he, by simpa using h.symm⟩
      · rename_i size hs
        split at h
        · cases h
        · rename_i hr
          split at h
          · exact .inr ⟨size, hs, hr, by simpa using h.symm⟩
          · cases h
    · cases h
  · cases h

/-- All the start of a `DECODE` can do when it answers a next state. -/
theorem startDecode_next {s t : State} {desc : List TagCode} {bytes : Bytes}
    (h : startDecode desc bytes s = .next t) :
    (∃ e, decodeCheck desc bytes.length = .error e ∧ t = s.raise e) ∨
    (∃ size, decodeCheck desc bytes.length = .ok size ∧
      t = s.beginOperation .decode desc (freshSlots s.allocs desc.length) size bytes) := by
  unfold startDecode at h
  split at h
  · split at h
    · split at h
      · rename_i e he
        exact .inl ⟨e, he, by simpa using h.symm⟩
      · rename_i size hs
        exact .inr ⟨size, hs, by simpa using h.symm⟩
    · cases h
  · cases h

@[simp] theorem freshBuf_length (i n : Nat) : (freshBuf i n).length = n := by simp [freshBuf]

@[simp] theorem freshSlots_length (i n : Nat) : (freshSlots i n).length = n := by simp [freshSlots]

end Sys2Proof.Machine
end

