-- ==== Sys2Proof/Laws/Demux.lean ====
section
/-! SUPPORT. What the dispatch and the requests do, said once: `dispatchTo_eq` for the six slots, and one equation for
each request. -/

namespace Sys2Proof.Machine

open Sys2Proof Sys2Proof.Safety

/-! ## The header -/

@[simp] theorem typeByte_cons (t : Byte) (m : Bytes) : typeByte (t :: m) = t := by
  simp [typeByte, leNat]

@[simp] theorem declaredLength_cons (t l0 l1 : Byte) (p : Bytes) :
    declaredLength (t :: l0 :: l1 :: p) = l0.toNat + 256 * l1.toNat := by
  simp [declaredLength, leNat]

@[simp] theorem actualLength_cons (t l0 l1 : Byte) (p : Bytes) : actualLength (t :: l0 :: l1 :: p) = p.length := by
  simp [actualLength, Config.hdrLen]

@[simp] theorem payloadOf_cons (t l0 l1 : Byte) (p : Bytes) : payloadOf (t :: l0 :: l1 :: p) = p := by
  simp [payloadOf, Config.hdrLen]

/-- A message with a header is its type byte, its two length bytes and its payload. -/
theorem exists_header {m : Bytes} (h : ¬ m.length < Config.hdrLen) : ∃ t l0 l1 p, m = t :: l0 :: l1 :: p := by
  match m, h with
  | t :: l0 :: l1 :: p, _ => exact ⟨t, l0, l1, p, rfl⟩
  | [], h | [_], h | [_, _], h => exact absurd (by simp [Config.hdrLen]) h

/-! ## The dispatch -/

/-- The state after `RECV` step 4 for a slot. -/
def afterDispatch (s : State) (slot : Slot) (t : Byte) (p : Bytes) : State :=
  { s with msg := none, trace := s.trace ++ dispatchEvents (s.subtab.row slot) slot t p }

theorem dispatchTo_header {s : State} {t l0 l1 : Byte} {p : Bytes} (slot : Slot)
    (h : s.msg = some (t :: l0 :: l1 :: p)) : dispatchTo slot s = .next (afterDispatch s slot t p) := by
  have hl : ¬ (t :: l0 :: l1 :: p).length < Config.hdrLen := by simp [Config.hdrLen]
  unfold dispatchTo
  simp only [h, if_neg hl]
  cases hr : s.subtab.row slot <;>
    simp [afterDispatch, dispatchEvents, hr, State.diag, State.emit, State.dropMessage, State.deliverAll]

theorem dispatchTo_noHeader {s : State} (slot : Slot) (h : ∀ m, s.msg = some m → m.length < 3) :
    dispatchTo slot s = .fault .noHeader := by
  unfold dispatchTo
  cases hm : s.msg with
  | none => rfl
  | some m => simp [Config.hdrLen, h m hm]

/-- All the dispatch to a slot can do. -/
theorem dispatchTo_eq (slot : Slot) (s : State) :
    (∃ t l0 l1 p, s.msg = some (t :: l0 :: l1 :: p) ∧ dispatchTo slot s = .next (afterDispatch s slot t p)) ∨
    ((∀ m, s.msg = some m → m.length < 3) ∧ dispatchTo slot s = .fault .noHeader) := by
  by_cases h : ∀ m, s.msg = some m → m.length < 3
  · exact .inr ⟨h, dispatchTo_noHeader slot h⟩
  · simp only [Classical.not_forall] at h
    obtain ⟨m, hm, hl⟩ := h
    obtain ⟨t, l0, l1, p, rfl⟩ := exists_header (m := m) hl
    exact .inl ⟨t, l0, l1, p, hm, dispatchTo_header slot hm⟩

theorem dispatchByType_eq (t : Byte) (s : State) : dispatchByType t s = dispatchTo (slotOf t) s := by
  unfold dispatchByType
  cases slotOf t <;> rfl

/-! ## The requests -/

theorem execRecv_short {s : State} {m : Bytes} (hw : Config.within s.cap.msgMax m.length = true) (h : m.length < 3) :
    execRecv m s = .next { s with msg := none, trace := s.trace ++ [.diag (.shortMessage m.length)] } := by
  unfold execRecv
  rw [if_pos hw, if_pos (by simpa [Config.hdrLen] using h)]
  rfl

theorem execRecv_header {s : State} {t l0 l1 : Byte} {p : Bytes}
    (hw : Config.within s.cap.msgMax (p.length + 3) = true) :
    execRecv (t :: l0 :: l1 :: p) s = .next { s with
      msg := none
      trace := s.trace ++ warningEvents (l0.toNat + 256 * l1.toNat) p.length ++
        dispatchEvents (s.subtab.row (slotOf t)) (slotOf t) t p } := by
  unfold execRecv
  rw [if_pos (by simpa using hw), if_neg (by simp [Config.hdrLen]), dispatchByType_eq, typeByte_cons]
  have hm : (warnLength (t :: l0 :: l1 :: p) (s.holdMessage (t :: l0 :: l1 :: p))).msg =
      some (t :: l0 :: l1 :: p) := by
    unfold warnLength; split <;> rfl
  rw [dispatchTo_header _ hm]
  unfold warnLength
  simp only [actualLength_cons, declaredLength_cons]
  split <;> simp_all [afterDispatch, warningEvents, State.holdMessage, State.diag, State.emit]

/-- All a `RECV` can do when it answers a next state. -/
theorem execRecv_next {s t : State} {m : Bytes} (h : execRecv m s = .next t) :
    Config.within s.cap.msgMax m.length = true ∧
    ((m.length < 3 ∧ t = { s with msg := none, trace := s.trace ++ [.diag (.shortMessage m.length)] }) ∨
     (∃ ty l0 l1 p, m = ty :: l0 :: l1 :: p ∧ t = { s with
        msg := none
        trace := s.trace ++ warningEvents (l0.toNat + 256 * l1.toNat) p.length ++
          dispatchEvents (s.subtab.row (slotOf ty)) (slotOf ty) ty p })) := by
  by_cases hw : Config.within s.cap.msgMax m.length = true
  · refine ⟨hw, ?_⟩
    by_cases hl : m.length < 3
    · rw [execRecv_short hw hl] at h
      exact .inl ⟨hl, by simpa using h.symm⟩
    · obtain ⟨ty, l0, l1, p, rfl⟩ := exists_header (m := m) hl
      rw [execRecv_header (by simpa using hw)] at h
      exact .inr ⟨ty, l0, l1, p, rfl, by simpa using h.symm⟩
  · simp [execRecv, hw] at h

theorem execRecv_tooLong {s : State} {m : Bytes} (hw : Config.within s.cap.msgMax m.length = false) :
    execRecv m s = .refused .messageTooLong := by
  simp [execRecv, hw]

theorem execSend_connected {s : State} {b : Bytes} (hw : Config.within s.cap.msgMax b.length = true)
    (hc : s.conn = true) : execSend b s = .next { s with trace := s.trace ++ [.tout b, .res .ok] } := by
  simp [execSend, hw, hc, State.transportSend, State.emit]

theorem execSend_notConnected {s : State} {b : Bytes} (hw : Config.within s.cap.msgMax b.length = true)
    (hc : s.conn = false) : execSend b s = .next { s with trace := s.trace ++ [.res .notConnectedError] } := by
  simp [execSend, hw, hc, State.emit]

/-- All a `SEND` can do when it answers a next state. -/
theorem execSend_next {s t : State} {b : Bytes} (h : execSend b s = .next t) :
    Config.within s.cap.msgMax b.length = true ∧
    ((s.conn = true ∧ t = { s with trace := s.trace ++ [.tout b, .res .ok] }) ∨
     (s.conn = false ∧ t = { s with trace := s.trace ++ [.res .notConnectedError] })) := by
  by_cases hw : Config.within s.cap.msgMax b.length = true
  · refine ⟨hw, ?_⟩
    by_cases hc : s.conn = true
    · rw [execSend_connected hw hc] at h; exact .inl ⟨hc, by simpa using h.symm⟩
    · rw [Bool.not_eq_true] at hc
      rw [execSend_notConnected hw hc] at h; exact .inr ⟨hc, by simpa using h.symm⟩
  · simp [execSend, hw] at h

/-- All a `SUBSCRIBE` can do when it answers a next state. -/
theorem execSubscribe_next {s t : State} {slot : Slot} {x : Config.SinkId} (h : execSubscribe slot x s = .next t) :
    (x ∈ s.subtab.row slot ∧ t = s) ∨
    (x ∉ s.subtab.row slot ∧ Config.within s.cap.subMax ((s.subtab.row slot).length + 1) = true ∧
      t = s.setRow slot (s.subtab.row slot ++ [x])) := by
  unfold execSubscribe at h
  split at h
  · exact .inl ⟨‹_›, by simpa using h.symm⟩
  · split at h
    · exact .inr ⟨‹_›, ‹_›, by simpa using h.symm⟩
    · cases h

/-! ## The queue -/

theorem enqueue_fits {s : State} {r : Request} (h : Config.within s.cap.rqMax (s.rq.length + 1) = true) :
    enqueue s r = .next (s.setRq (s.rq ++ [r])) := by
  simp [enqueue, h]

theorem enqueue_full {s : State} {r : Request} (h : Config.within s.cap.rqMax (s.rq.length + 1) = false) :
    enqueue s r = .refused .queueFull := by
  simp [enqueue, h]

theorem enqueue_next {s t : State} {r : Request} (h : enqueue s r = .next t) :
    Config.within s.cap.rqMax (s.rq.length + 1) = true ∧ t = s.setRq (s.rq ++ [r]) := by
  unfold enqueue at h
  split at h
  · exact ⟨‹_›, by simpa using h.symm⟩
  · cases h

/-- A queued request's code always decodes, to the request's own instruction. -/
theorem decode_request_code (r : Request) :
    decode r.code = .ok (match r with
      | .recv m => .recv m
      | .send b => .send b
      | .subscribe slot x => .subscribe slot x
      | .connected => .connected
      | .disconnected => .disconnected) := by
  cases r with
  | subscribe slot x => cases slot <;> rfl
  | _ => rfl

end Sys2Proof.Machine
end

