-- ==== Sys2Proof/Laws/PerInstr.lean ====
section
/-! SUPPORT. Facts about the instructions as syntax, one lemma per constructor.
OneEncoding: an instruction has one encoded form; whatever decodes to it is its own encoding. -/

namespace Sys2Proof.Laws

open Sys2Proof

theorem encode_of_decodeUop (k : BitVec 5) (i : Instr) (h : decodeUop k = .ok i) : encode i = .uop k := by
  have all : ∀ k : BitVec 5, (match decodeUop k with | .ok j => decide (encode j = .uop k) | .error _ => true) = true := by
    decide
  have := all k
  rw [h] at this
  simpa using this

theorem number_of_ofNumber (n : BitVec 3) (slot : Slot) (h : Slot.ofNumber n = some slot) : slot.number = n := by
  have all : ∀ n : BitVec 3, (match Slot.ofNumber n with | some t => decide (t.number = n) | none => true) = true := by
    decide
  have := all n
  rw [h] at this
  simpa using this

theorem encode_of_decodeReq (c : BitVec 3) (ops : ReqOperands) (i : Instr) (h : decodeReq c ops = .ok i) :
    encode i = .req c ops := by
  have hc : c = BitVec.ofNat 3 c.toNat := by simp
  unfold decodeReq at h
  split at h
  · rename_i h0; rw [h0] at hc; cases h; rw [hc]; rfl
  · rename_i h0; rw [h0] at hc; cases h; rw [hc]; rfl
  · rename_i h0; rw [h0] at hc
    split at h
    · rename_i slot hs
      cases h
      rw [hc, ← number_of_ofNumber _ _ hs]; rfl
    · cases h
  · rename_i h0; rw [h0] at hc; cases h; rw [hc]; rfl
  · rename_i h0; rw [h0] at hc; cases h; rw [hc]; rfl
  · split at h <;> cases h

theorem encode_of_decodeType (t : Byte) (i : Instr) (h : decodeType t = .ok i) : encode i = .ptype t := by
  have ht : t = BitVec.ofNat 8 t.toNat := by simp
  unfold decodeType slotOf at h
  split at h <;> rename_i hs <;> split at hs <;> rename_i h0 <;> first
    | exact absurd hs (by decide)
    | (cases h; done)
    | (rw [h0] at ht; cases h; rw [ht]; rfl)

theorem encode_of_decode (c : Code) (i : Instr) (h : decode c = .ok i) : c = encode i := by
  cases c with
  | uop k => exact (encode_of_decodeUop k i h).symm
  | req c ops => exact (encode_of_decodeReq c ops i h).symm
  | ptype t => exact (encode_of_decodeType t i h).symm

namespace OneEncoding

/-- Whatever decodes to `i` is the encoding of `i`. -/
def Statement (i : Instr) : Prop := ∀ c : Code, decode c = .ok i → c = encode i

theorem encInt8 : Statement .encInt8 := fun c => encode_of_decode c _
theorem encUint8 : Statement .encUint8 := fun c => encode_of_decode c _
theorem encInt16 : Statement .encInt16 := fun c => encode_of_decode c _
theorem encUint16 : Statement .encUint16 := fun c => encode_of_decode c _
theorem encInt32 : Statement .encInt32 := fun c => encode_of_decode c _
theorem encUint32 : Statement .encUint32 := fun c => encode_of_decode c _
theorem encInt64 : Statement .encInt64 := fun c => encode_of_decode c _
theorem encUint64 : Statement .encUint64 := fun c => encode_of_decode c _
theorem encFloat32 : Statement .encFloat32 := fun c => encode_of_decode c _
theorem encRawTail : Statement .encRawTail := fun c => encode_of_decode c _
theorem decInt8 : Statement .decInt8 := fun c => encode_of_decode c _
theorem decUint8 : Statement .decUint8 := fun c => encode_of_decode c _
theorem decInt16 : Statement .decInt16 := fun c => encode_of_decode c _
theorem decUint16 : Statement .decUint16 := fun c => encode_of_decode c _
theorem decInt32 : Statement .decInt32 := fun c => encode_of_decode c _
theorem decUint32 : Statement .decUint32 := fun c => encode_of_decode c _
theorem decInt64 : Statement .decInt64 := fun c => encode_of_decode c _
theorem decUint64 : Statement .decUint64 := fun c => encode_of_decode c _
theorem decFloat32 : Statement .decFloat32 := fun c => encode_of_decode c _
theorem decRawTail : Statement .decRawTail := fun c => encode_of_decode c _
theorem recv (m : Bytes) : Statement (.recv m) := fun c => encode_of_decode c _
theorem send (b : Bytes) : Statement (.send b) := fun c => encode_of_decode c _
theorem subscribe (slot : Slot) (x : Config.SinkId) : Statement (.subscribe slot x) := fun c => encode_of_decode c _
theorem connected : Statement .connected := fun c => encode_of_decode c _
theorem disconnected : Statement .disconnected := fun c => encode_of_decode c _
theorem dispatchResponse : Statement .dispatchResponse := fun c => encode_of_decode c _
theorem dispatchDebug : Statement .dispatchDebug := fun c => encode_of_decode c _
theorem dispatchStatus : Statement .dispatchStatus := fun c => encode_of_decode c _
theorem dispatchData : Statement .dispatchData := fun c => encode_of_decode c _
theorem dispatchFft : Statement .dispatchFft := fun c => encode_of_decode c _

end OneEncoding

end Sys2Proof.Laws
end

