-- ==== Sys2Proof/Laws/Step.lean ====
section
/-! SUPPORT. One equation of `step` for each thing that can move next. -/

namespace Sys2Proof.Machine

open Sys2Proof Sys2Proof.Safety

theorem step_micro {s : State} {c : TagCode} {t : Tag} (hb : s.busy = true) (hc : s.desc[s.fi]? = some c)
    (ht : Tag.ofCode c = some t) : step s = exec (microOp s.mode t) s := by
  simp [step, nextMove, hb, hc, decode, decodeUop_uopKey, ht]

theorem step_unknownTag {s : State} {c : TagCode} (hb : s.busy = true) (hc : s.desc[s.fi]? = some c)
    (ht : Tag.ofCode c = none) : step s = .next (s.raise (.formatError (.unknownTag s.fi c))) := by
  simp [step, nextMove, hb, hc, decode, decodeUop_uopKey, ht, rejected]

theorem step_finish {s : State} (hb : s.busy = true) (hc : s.desc[s.fi]? = none) :
    step s = .next (finishOperation s) := by
  simp [step, nextMove, hb, hc]

/-- A held message goes to the selector of its type byte, whether the byte has a DISPATCH row or not. -/
theorem step_selector {s : State} {t : Byte} {m : Bytes} (hb : s.busy = false) (hm : s.msg = some (t :: m)) :
    step s = dispatchTo (slotOf t) s := by
  simp only [step, nextMove, hb, Bool.false_eq_true, if_false, hm, decode, decodeType]
  cases slotOf t <;> rfl

/-! ## Idle: the environment or `PD` moves -/

/-- The instruction of a queued request. -/
def instrOf : Request → Instr
  | .recv m => .recv m
  | .send b => .send b
  | .subscribe slot x => .subscribe slot x
  | .connected => .connected
  | .disconnected => .disconnected

theorem decode_code (r : Request) : decode r.code = .ok (instrOf r) := by
  rw [decode_request_code]; cases r <;> rfl

theorem nextMove_idle {s : State} (h : Idle s) : nextMove s = inputMove s := by
  simp [nextMove, h.1, h.2]

theorem step_request {s : State} {r : Request} {q : List Request} (h : Idle s) (hi : s.inputs = []) (hr : s.rq = r :: q) :
    step s = exec (instrOf r) (s.setRq q) := by
  simp [step, nextMove_idle h, inputMove, hi, requestMove, hr, decode_code]

theorem step_wait {s : State} (h : Idle s) (hi : s.inputs = []) (hr : s.rq = []) : step s = .next s := by
  simp [step, nextMove_idle h, inputMove, hi, requestMove, hr]

theorem step_turn {s : State} {r : Request} {q : List Request} {rest : List Input} (h : Idle s)
    (hi : s.inputs = .pd :: rest) (hr : s.rq = r :: q) :
    step s = exec (instrOf r) ((s.setInputs rest).setRq q) := by
  simp [step, nextMove_idle h, inputMove, hi, requestMove, hr, decode_code]

theorem step_emptyTurn {s : State} {rest : List Input} (h : Idle s) (hi : s.inputs = .pd :: rest) (hr : s.rq = []) :
    step s = .next (s.setInputs rest) := by
  simp [step, nextMove_idle h, inputMove, hi, requestMove, hr]

theorem step_tin {s : State} {e : TransportEvent} {rest : List Input} (h : Idle s) (hi : s.inputs = .tin e :: rest) :
    step s = enqueue (s.setInputs rest) e.request := by
  simp [step, nextMove_idle h, inputMove, hi]

theorem step_req {s : State} {r : CallerRequest} {rest : List Input} (h : Idle s) (hi : s.inputs = .req r :: rest) :
    step s = enqueue (s.setInputs rest) r.request := by
  simp [step, nextMove_idle h, inputMove, hi]

theorem step_encode {s : State} {d : List TagCode} {v : List Value} {rest : List Input} (h : Idle s)
    (hi : s.inputs = .encode d v :: rest) : step s = startEncode d v (s.setInputs rest) := by
  simp [step, nextMove_idle h, inputMove, hi]

theorem step_decode {s : State} {d : List TagCode} {b : Bytes} {rest : List Input} (h : Idle s)
    (hi : s.inputs = .decode d b :: rest) : step s = startDecode d b (s.setInputs rest) := by
  simp [step, nextMove_idle h, inputMove, hi]

/-! ## Everything a step can do -/

/-- What a step is, case by case: a micro-operation, an unknown tag, the end of an operation, a held message, or one
of the moves of an idle block. -/
inductive StepCase (s : State) : Prop where
  | micro (c : TagCode) (t : Tag) (hb : s.busy = true) (hc : s.desc[s.fi]? = some c) (ht : Tag.ofCode c = some t)
      (h : step s = exec (microOp s.mode t) s)
  | unknownTag (c : TagCode) (hb : s.busy = true) (hc : s.desc[s.fi]? = some c) (ht : Tag.ofCode c = none)
      (h : step s = .next (s.raise (.formatError (.unknownTag s.fi c))))
  | finish (hb : s.busy = true) (hc : s.desc[s.fi]? = none) (h : step s = .next (finishOperation s))
  | emptyMessage (hb : s.busy = false) (hm : s.msg = some []) (h : step s = .fault .noHeader)
  | selector (t : Byte) (m : Bytes) (hb : s.busy = false) (hm : s.msg = some (t :: m))
      (h : step s = dispatchTo (slotOf t) s)
  | wait (hi : Idle s) (hn : s.inputs = []) (hr : s.rq = []) (h : step s = .next s)
  | request (r : Request) (q : List Request) (rest : List Input) (hi : Idle s)
      (hn : (s.inputs = [] ∧ rest = []) ∨ s.inputs = .pd :: rest) (hr : s.rq = r :: q)
      (h : step s = exec (instrOf r) ((s.setInputs rest).setRq q))
  | emptyTurn (rest : List Input) (hi : Idle s) (hn : s.inputs = .pd :: rest) (hr : s.rq = [])
      (h : step s = .next (s.setInputs rest))
  | arrive (r : Request) (rest : List Input) (hi : Idle s) (x : Input) (hn : s.inputs = x :: rest)
      (h : step s = enqueue (s.setInputs rest) r)
  | encode (d : List TagCode) (v : List Value) (rest : List Input) (hi : Idle s) (hn : s.inputs = .encode d v :: rest)
      (h : step s = startEncode d v (s.setInputs rest))
  | decode (d : List TagCode) (b : Bytes) (rest : List Input) (hi : Idle s) (hn : s.inputs = .decode d b :: rest)
      (h : step s = startDecode d b (s.setInputs rest))

theorem stepCase (s : State) : StepCase s := by
  by_cases hb : s.busy = true
  · cases hc : s.desc[s.fi]? with
    | none => exact .finish hb hc (step_finish hb hc)
    | some c =>
      cases ht : Tag.ofCode c with
      | none => exact .unknownTag c hb hc ht (step_unknownTag hb hc ht)
      | some t => exact .micro c t hb hc ht (step_micro hb hc ht)
  · rw [Bool.not_eq_true] at hb
    cases hm : s.msg with
    | some m =>
      cases m with
      | nil => exact .emptyMessage hb hm (by simp [step, nextMove, hb, hm])
      | cons t m => exact .selector t m hb hm (step_selector hb hm)
    | none =>
      have hi : Idle s := ⟨hb, hm⟩
      cases hn : s.inputs with
      | nil =>
        cases hr : s.rq with
        | nil => exact .wait hi hn hr (step_wait hi hn hr)
        | cons r q =>
          have h := step_request hi hn hr
          refine .request r q [] hi (.inl ⟨hn, rfl⟩) hr ?_
          rw [h]; simp only [State.setInputs, ← hn]
      | cons x rest =>
        cases x with
        | pd =>
          cases hr : s.rq with
          | nil => exact .emptyTurn rest hi hn hr (step_emptyTurn hi hn hr)
          | cons r q => exact .request r q rest hi (.inr hn) hr (step_turn hi hn hr)
        | tin e => exact .arrive e.request rest hi _ hn (step_tin hi hn)
        | req r => exact .arrive r.request rest hi _ hn (step_req hi hn)
        | encode d v => exact .encode d v rest hi hn (step_encode hi hn)
        | decode d b => exact .decode d b rest hi hn (step_decode hi hn)

/-! ## Runs -/

theorem steps_zero (s : State) : steps 0 s = .next s := rfl

/-- `k + 1` steps of which the first answers `t` are `k` steps from `t`. -/
theorem steps_of_step {s t : State} (k : Nat) (h : step s = .next t) : steps (k + 1) s = steps k t := by
  have hs : Host.Core.step core s = .next t := h
  simp only [steps, Host.Core.run, hs]
  rfl

/-- Steps add up. -/
theorem steps_add {a b : Nat} {s t : State} (h : steps a s = .next t) : steps (a + b) s = steps b t := by
  induction a generalizing s with
  | zero =>
    rw [steps_zero] at h
    cases h
    rw [Nat.zero_add]
  | succ a ih =>
    cases hs : step s with
    | next u =>
      rw [steps_of_step a hs] at h
      rw [show a + 1 + b = (a + b) + 1 by omega, steps_of_step _ hs]
      exact ih h
    | fault f =>
      have hs' : Host.Core.step core s = .fault f := hs
      simp only [steps, Host.Core.run, hs'] at h
      cases h
    | refused r =>
      have hs' : Host.Core.step core s = .refused r := hs
      simp only [steps, Host.Core.run, hs'] at h
      cases h

end Sys2Proof.Machine
end

