-- ==== Sys2Proof/Tests/Slice0.lean ====
section
/-! SUPPORT. Tests: encodings written out from 30_encoding.md, corner cases and vectors taken from the rules and from
95_test_vectors.md (each test names its source), and one witness for every statement that has hypotheses. -/

namespace Sys2Proof.Tests

open Sys2Proof Sys2Proof.Machine Sys2Proof.Safety

/-! ## Helpers -/

/-- What a function of the next state gives; none for a fault or a refusal. -/
def after {α : Type} (f : State → α) : Host.Outcome State Fault Refusal → Option α
  | .next s => some (f s)
  | .fault _ => none
  | .refused _ => none

/-- The reason of a refusal. -/
def refusal : Host.Outcome State Fault Refusal → Option Refusal
  | .refused r => some r
  | .next _ => none
  | .fault _ => none

/-- The reason of a fault. -/
def faultOf : Host.Outcome State Fault Refusal → Option Fault
  | .fault f => some f
  | .next _ => none
  | .refused _ => none

/-- An `ENCODE` at its only field, whose value is `x`, with a buffer of `n` bytes `AA`. -/
def encAt (t : Tag) (x : Value) (n : Nat) : State :=
  { State.reset with
    busy := true, mode := .encode, desc := [t.code], v := [x], size := n, buf := List.replicate n 0xAA }

/-- A `DECODE` at its only field, on the bytes `b`. -/
def decAt (t : Tag) (b : Bytes) : State :=
  { State.reset with busy := true, mode := .decode, desc := [t.code], v := [.num 0], size := width t, buf := b }

/-- Reset, with the subscribers of one slot. -/
def withSubs (slot : Slot) (l : List Config.SinkId) : State := State.reset.setRow slot l

/-- Reset with a connection. -/
def online : State := State.reset.setConn true

/-- Reset with moves the environment has still to make. -/
def given (l : List Input) : State := { State.reset with inputs := l }

/-- Capacities for the tests of R6. -/
def small : Config.Capacities :=
  { descMax := some 1, bufMax := some 2, msgMax := some 3, subMax := some 1, rqMax := some 1 }

/-! ## Encodings, written out bit by bit -/

/-- R59: bit 4 is `MODE` = 0, bits 3:0 the tag code. -/
theorem test_words_of_enc :
    decode (.uop 0b00000) = .ok .encInt8 ∧ decode (.uop 0b00001) = .ok .encUint8 ∧
    decode (.uop 0b00010) = .ok .encInt16 ∧ decode (.uop 0b00011) = .ok .encUint16 ∧
    decode (.uop 0b00100) = .ok .encInt32 ∧ decode (.uop 0b00101) = .ok .encUint32 ∧
    decode (.uop 0b00110) = .ok .encInt64 ∧ decode (.uop 0b00111) = .ok .encUint64 ∧
    decode (.uop 0b01000) = .ok .encFloat32 ∧ decode (.uop 0b01001) = .ok .encRawTail := by
  refine ⟨?_, ?_, ?_, ?_, ?_, ?_, ?_, ?_, ?_, ?_⟩ <;> rfl

/-- R59: bit 4 is `MODE` = 1. -/
theorem test_words_of_dec :
    decode (.uop 0b10000) = .ok .decInt8 ∧ decode (.uop 0b10001) = .ok .decUint8 ∧
    decode (.uop 0b10010) = .ok .decInt16 ∧ decode (.uop 0b10011) = .ok .decUint16 ∧
    decode (.uop 0b10100) = .ok .decInt32 ∧ decode (.uop 0b10101) = .ok .decUint32 ∧
    decode (.uop 0b10110) = .ok .decInt64 ∧ decode (.uop 0b10111) = .ok .decUint64 ∧
    decode (.uop 0b11000) = .ok .decFloat32 ∧ decode (.uop 0b11001) = .ok .decRawTail := by
  refine ⟨?_, ?_, ?_, ?_, ?_, ?_, ?_, ?_, ?_, ?_⟩ <;> rfl

/-- R60: the five request codes, with the operands each carries. -/
theorem test_words_of_requests :
    decode (.req 0b000 (.bytes [0x02, 0x00])) = .ok (.recv [0x02, 0x00]) ∧
    decode (.req 0b001 (.bytes [0x10, 0x00, 0x03])) = .ok (.send [0x10, 0x00, 0x03]) ∧
    decode (.req 0b010 (.subscription 0b010 7)) = .ok (.subscribe .status 7) ∧
    decode (.req 0b011 .none) = .ok .connected ∧
    decode (.req 0b100 .none) = .ok .disconnected := by
  refine ⟨?_, ?_, ?_, ?_, ?_⟩ <;> rfl

/-- R56, R57: the five type bytes, and three bytes that are not among them. -/
theorem test_words_of_types :
    decode (.ptype 0b00000000) = .ok .dispatchResponse ∧ decode (.ptype 0b00000001) = .ok .dispatchDebug ∧
    decode (.ptype 0b00000010) = .ok .dispatchStatus ∧ decode (.ptype 0b00000100) = .ok .dispatchData ∧
    decode (.ptype 0b00001000) = .ok .dispatchFft ∧
    decode (.ptype 0x03) = .error (.unknownType 0x03) ∧ decode (.ptype 0x0C) = .error (.unknownType 0x0C) ∧
    decode (.ptype 0xFF) = .error (.unknownType 0xFF) := by
  refine ⟨?_, ?_, ?_, ?_, ?_, ?_, ?_, ?_⟩ <;> rfl

/-- R61: unknown tags, reserved request codes, a slot number above 5, and a code with another request's operands. -/
theorem test_words_rejected :
    decode (.uop 0x0A) = .error (.unknownTag 10) ∧ decode (.uop 0x1F) = .error (.unknownTag 15) ∧
    decode (.req 5 .none) = .error (.reservedRequest 5) ∧ decode (.req 7 (.bytes [])) = .error (.reservedRequest 7) ∧
    decode (.req 2 (.subscription 6 0)) = .error (.reservedSlot 6) ∧
    decode (.req 3 (.bytes [])) = .error (.operandMismatch 3) := by
  refine ⟨?_, ?_, ?_, ?_, ?_, ?_⟩ <;> rfl

/-- The words of spec/opcode_table.json, as log entry 12 reads them. -/
theorem test_table_words :
    decodeTableWord 8 0x09 = some .encRawTail ∧ decodeTableWord 8 0x19 = some .decRawTail ∧
    decodeTableWord 8 0x0A = none ∧ decodeTableWord 8 0x20 = none ∧ decodeTableWord 3 4 = some .disconnected := by
  decide

/-- A placed word is what the next step runs (log entry 12). -/
theorem test_placed_word_runs :
    after (fun t => (t.fi, t.off, t.buf)) (step (State.reset.withFetchWord 8 0x03)) = some (1, 2, [0, 0]) ∧
    after (fun t => (t.conn, t.life)) (step (State.reset.withFetchWord 3 3)) = some (true, [.connected]) ∧
    after State.diagPort (step (place (.ptype 0x08) State.reset)) = some [.dropped 0x08 0] := by
  decide

/-! ## Well-formedness -/

/-- R6: a message beyond `MSG_MAX` makes `RECV` and `SEND` ill formed, and each is refused. -/
theorem test_ill_formed :
    Instr.wf small (.recv [0, 0, 0, 0]) = false ∧ Instr.wf small (.send [0, 0, 0, 0]) = false ∧
    Instr.wf small (.recv [0, 0, 0]) = true ∧
    refusal (exec (.recv [0, 0, 0, 0]) { State.reset with cap := small }) = some .messageTooLong ∧
    refusal (exec (.send [0, 0, 0, 0]) { State.reset with cap := small }) = some .messageTooLong := by
  decide

/-- R61: terms the types cannot form have no decoding. -/
theorem test_unformable :
    ValueClass.ofCode 3 = none ∧ Slot.ofNumber 6 = none ∧ Slot.ofNumber 7 = none ∧ Tag.ofCode 10 = none := by
  decide

/-! ## The ENC micro-operations (corner cases of R73 to R82) -/

/-- Witness of EncodeOneByteFields, one clause after the other, at the ends of the ranges. R73: -128 gives `80`, 127
gives `7F`, 128 is refused. R74: 255 gives `FF`, 256 is refused. -/
theorem test_witness_one_byte_fields :
    after (·.buf) (exec .encInt8 (encAt .int8 (.num 0xFFFFFF80) 1)) = some [0x80] ∧
    after (·.buf) (exec .encInt8 (encAt .int8 (.num 127) 1)) = some [0x7F] ∧
    refusal (exec .encInt8 (encAt .int8 (.num 128) 1)) = some (.valueOutOfRange 0) ∧
    after (·.buf) (exec .encUint8 (encAt .uint8 (.num 255) 1)) = some [0xFF] ∧
    refusal (exec .encUint8 (encAt .uint8 (.num 256) 1)) = some (.valueOutOfRange 0) := by
  decide

/-- Witness of EncodeTwoByteFields. R75: 32767 gives `FF 7F`, -32768 gives `00 80`, 32768 is refused. R76: 0x1234 gives
`34 12`, 65535 gives `FF FF`, 65536 is refused. -/
theorem test_witness_two_byte_fields :
    after (·.buf) (exec .encInt16 (encAt .int16 (.num 32767) 2)) = some [0xFF, 0x7F] ∧
    after (·.buf) (exec .encInt16 (encAt .int16 (.num 0xFFFF8000) 2)) = some [0x00, 0x80] ∧
    refusal (exec .encInt16 (encAt .int16 (.num 32768) 2)) = some (.valueOutOfRange 0) ∧
    after (·.buf) (exec .encUint16 (encAt .uint16 (.num 0x1234) 2)) = some [0x34, 0x12] ∧
    after (·.buf) (exec .encUint16 (encAt .uint16 (.num 65535) 2)) = some [0xFF, 0xFF] ∧
    refusal (exec .encUint16 (encAt .uint16 (.num 65536) 2)) = some (.valueOutOfRange 0) := by
  decide

/-- Witness of EncodeFourByteFields and EncodeFloat32Field. R77: -2147483648 gives `00 00 00 80`. R78: 0xDEADBEEF
gives `EF BE AD DE`.
R81: 0x7FC00000 gives `00 00 C0 7F`. -/
theorem test_witness_four_byte_fields :
    after (·.buf) (exec .encInt32 (encAt .int32 (.num 0x80000000) 4)) = some [0x00, 0x00, 0x00, 0x80] ∧
    after (·.buf) (exec .encUint32 (encAt .uint32 (.num 0xDEADBEEF) 4)) = some [0xEF, 0xBE, 0xAD, 0xDE] ∧
    after (·.buf) (exec .encFloat32 (encAt .float32 (.num 0x7FC00000) 4)) = some [0x00, 0x00, 0xC0, 0x7F] := by
  decide

/-- Witness of EncodeEightByteFields. R79: the least `int64`. R80: 0x0123456789ABCDEF. -/
theorem test_witness_eight_byte_fields :
    after (·.buf) (exec .encInt64 (encAt .int64 (.big 0x8000000000000000) 8)) = some [0, 0, 0, 0, 0, 0, 0, 0x80] ∧
    after (·.buf) (exec .encUint64 (encAt .uint64 (.big 0x0123456789ABCDEF) 8)) =
      some [0xEF, 0xCD, 0xAB, 0x89, 0x67, 0x45, 0x23, 0x01] := by
  decide

/-- Witness of EncodeRawField (R82): the bytes are copied; an empty range only advances `fi`. -/
theorem test_witness_raw_field :
    after (fun t => (t.buf, t.off, t.fi)) (exec .encRawTail (encAt .rawTail (.bytes [0xAA, 0xBB]) 2)) =
      some ([0xAA, 0xBB], 2, 1) ∧
    after (fun t => (t.buf, t.off, t.fi)) (exec .encRawTail (encAt .rawTail (.bytes []) 0)) = some ([], 0, 1) := by
  decide

/-- Witness of EncodeFrame, and of the premise of EncodedPatternIsTwosComplement: `int16 -2` gives `FE FF` (R75), in
the middle of a buffer, and leaves the bytes on both sides. -/
theorem test_witness_encode_frame :
    after (fun t => (t.buf, t.off, t.fi))
      (exec (microOp .encode .int16) { encAt .int16 (.num 0xFFFFFFFE) 4 with off := 1 }) =
        some ([0xAA, 0xFE, 0xFF, 0xAA], 3, 1) ∧
    (range .int16).isSome = true ∧ intOf .int16 (.num 0xFFFFFFFE) = some (-2) := by
  decide

/-- A value of another class, and a buffer that is too short, stop a micro-operation run out of its operation (R67
says the check phase excludes both). -/
theorem test_micro_op_out_of_place :
    faultOf (exec .encUint64 (encAt .uint64 (.num 1) 8)) = some .slotClass ∧
    faultOf (exec .encUint32 (encAt .uint32 (.num 1) 3)) = some .outsideBuffer ∧
    faultOf (exec .decUint16 (decAt .uint16 [5])) = some .outsideBuffer := by
  decide

/-! ## The DEC micro-operations (R89 to R98) -/

/-- Witness of DecodeOneByteFields and DecodedIntegerIsTwosComplement: `FE` is -2 as `int8` and 254 as `uint8`. -/
theorem test_witness_decode_one_byte :
    (decAt .int8 [0xFE]).buf.drop 0 = 0xFE :: [] ∧
    after (·.v) (exec .decInt8 (decAt .int8 [0xFE])) = some [.num 0xFFFFFFFE] ∧
    after (·.v) (exec .decUint8 (decAt .uint8 [0xFE])) = some [.num 254] ∧
    memRead (decAt .int8 [0xFE]).buf 0 (width .int8) = some 254 ∧ integerOf .int8 254 = -2 := by
  decide

/-- Witness of DecodeTwoByteFields: `00 80` is -32768 as `int16` and 32768 as `uint16`. -/
theorem test_witness_decode_two_bytes :
    (decAt .int16 [0x00, 0x80]).buf.drop 0 = 0x00 :: 0x80 :: [] ∧
    after (·.v) (exec .decInt16 (decAt .int16 [0x00, 0x80])) = some [.num 0xFFFF8000] ∧
    after (·.v) (exec .decUint16 (decAt .uint16 [0x00, 0x80])) = some [.num 0x8000] := by
  decide

/-- Witness of DecodeFourByteFields and DecodeFloat32Field: `24 FA FF FF` is -1500 (program P4), `00 28 6B EE`
is 4000000000 (P4), and
`00 00 20 C0` is the pattern 0xC0200000 (P3). -/
theorem test_witness_decode_four_bytes :
    (decAt .int32 [0x24, 0xFA, 0xFF, 0xFF]).buf.drop 0 = 0x24 :: 0xFA :: 0xFF :: 0xFF :: [] ∧
    after (·.v) (exec .decInt32 (decAt .int32 [0x24, 0xFA, 0xFF, 0xFF])) = some [.num 0xFFFFFA24] ∧
    after (·.v) (exec .decUint32 (decAt .uint32 [0x00, 0x28, 0x6B, 0xEE])) = some [.num 4000000000] ∧
    after (·.v) (exec .decFloat32 (decAt .float32 [0x00, 0x00, 0x20, 0xC0])) = some [.num 0xC0200000] := by
  decide

/-- Witness of DecodeEightByteFields: `01 00 00 00 00 00 20 00` is 9007199254740993 (P4), and eight `FF` are -1. -/
theorem test_witness_decode_eight_bytes :
    (decAt .int64 [1, 0, 0, 0, 0, 0, 0x20, 0]).buf.drop 0 = 1 :: 0 :: 0 :: 0 :: 0 :: 0 :: 0x20 :: 0 :: [] ∧
    after (·.v) (exec .decUint64 (decAt .uint64 [1, 0, 0, 0, 0, 0, 0x20, 0])) = some [.big 9007199254740993] ∧
    after (·.v) (exec .decInt64 (decAt .int64 (List.replicate 8 0xFF))) = some [.big 0xFFFFFFFFFFFFFFFF] ∧
    intOf .int64 (.big 0xFFFFFFFFFFFFFFFF) = some (-1) := by
  decide

/-- Witness of DecodeRawField and DecodeFrame: every remaining byte, which may be none (R98). -/
theorem test_witness_decode_raw_field :
    after (fun t => (t.v, t.off, t.fi)) (exec .decRawTail { decAt .rawTail [1, 2, 3] with off := 1 }) =
      some ([.bytes [2, 3]], 3, 1) ∧
    after (fun t => (t.v, t.off, t.fi)) (exec (microOp .decode .rawTail) (decAt .rawTail [])) =
      some ([.bytes []], 0, 1) := by
  decide

/-! ## Bytes and lanes -/

/-- Witness of ReadAfterWriteIsLittleEndian, at the end of a buffer: 0x1234 is `34 12` (R36, R76). -/
theorem test_witness_read_after_write :
    1 + 2 ≤ ([7, 7, 7] : Bytes).length ∧ (0x1234 < 256 ^ 2) ∧
    memWrite [7, 7, 7] 1 2 0x1234 = some [7, 0x34, 0x12] ∧ memRead [7, 0x34, 0x12] 1 2 = some 0x1234 := by
  decide

/-- Witness of CanonicalLanes, third clause (R52): what `DEC.int8` gives. -/
theorem test_witness_canonical_lanes :
    after (fun t => t.v[(decAt .int8 [0x80]).fi]?) (exec (microOp .decode .int8) (decAt .int8 [0x80])) =
      some (some (.num 0xFFFFFF80)) ∧
    canonical .int8 (.num 0xFFFFFF80) = true ∧ canonical .int8 (.num 0x80) = false := by
  decide

/-! ## Requests (vectors of table V5) -/

/-- Q1, Q5 and Q11; with these the witness of RecvAsAWhole (both clauses) and DemuxFrame. -/
theorem test_witness_recv :
    after (fun t => (t.trace, t.msg)) (exec (.recv [0x02, 0x00]) State.reset) = some ([.diag (.shortMessage 2)], none) ∧
    after (·.trace) (exec (.recv [0x02, 0x01, 0x00]) (withSubs .status [1])) =
      some [.diag (.protocolInconsistencyWarning 1 0), .sink ⟨1, .status, 0x02, []⟩] ∧
    after (·.trace) (exec (.recv [0x08, 0x01, 0x00, 0x55]) (withSubs .fft [5, 4])) =
      some [.sink ⟨5, .fft, 0x08, [0x55]⟩, .sink ⟨4, .fft, 0x08, [0x55]⟩] ∧
    Config.within small.msgMax 2 = true ∧ Config.within small.msgMax (0 + 3) = true := by
  decide

/-- Q7, Q9 and Q10: a little-endian length, and the slot `UNKNOWN` with and without a subscriber. -/
theorem test_recv_unknown_and_length :
    after (·.trace) (exec (.recv [0x02, 0x34, 0x12, 0xAA]) (withSubs .status [1])) =
      some [.diag (.protocolInconsistencyWarning 4660 1), .sink ⟨1, .status, 0x02, [0xAA]⟩] ∧
    after (·.trace) (exec (.recv [0x03, 0x00, 0x00]) (withSubs .status [1])) = some [.diag (.dropped 0x03 0)] ∧
    after (·.trace) (exec (.recv [0x0C, 0x00, 0x00]) (withSubs .unknown [4])) =
      some [.sink ⟨4, .unknown, 0x0C, []⟩] := by
  decide

/-- Q12, Q13, Q14; with these the witness of SendForwardsOrFails. -/
theorem test_witness_send :
    after (·.trace) (exec (.send [0x10, 0x00, 0x03]) State.reset) = some [.res .notConnectedError] ∧
    after (·.trace) (exec (.send [0x10, 0x00, 0x03]) online) = some [.tout [0x10, 0x00, 0x03], .res .ok] ∧
    after (·.trace) (exec (.send []) online) = some [.tout [], .res .ok] ∧
    State.reset.conn = false ∧ online.conn = true := by
  decide

/-- Q18, Q19, Q20, and a full row; with these the witness of SubscribeAppendsOnce, clause by clause. -/
theorem test_witness_subscribe :
    after (·.subtab.status) (exec (.subscribe .status 1) State.reset) = some [1] ∧
    after (·.subtab.status) (exec (.subscribe .status 1) (withSubs .status [1])) = some [1] ∧
    after (·.subtab.status) (exec (.subscribe .status 2) (withSubs .status [1])) = some [1, 2] ∧
    refusal (exec (.subscribe .status 2) { withSubs .status [1] with cap := small }) = some (.rowFull .status) ∧
    after (·.subtab.status) (exec (.subscribe .status 1) { withSubs .status [1] with cap := small }) = some [1] := by
  decide

/-- Q15, Q16, Q17, and a `SEND` after a disconnection; with these the witness of ConnectedSetsAndNotifies and
DisconnectedClearsAndNotifies. -/
theorem test_witness_lifecycle :
    after (fun t => (t.conn, t.trace)) (exec .connected State.reset) = some (true, [.life .connected]) ∧
    after (fun t => (t.conn, t.trace)) (exec .connected online) = some (true, [.life .connected]) ∧
    after (fun t => (t.conn, t.trace, t.subtab.status)) (exec .disconnected ((withSubs .status [1]).setConn true)) =
      some (false, [.life .disconnected], [1]) ∧
    after (·.res) (exec (.send [1]) (online.setConn false)) = some [.notConnectedError] := by
  decide

/-- Witness of SelectorsDispatch: a held message of three bytes, with and without a subscriber, and an unknown type. -/
theorem test_witness_selectors :
    (withSubs .data [9]).msg = none ∧
    after (·.trace) (exec .dispatchData ((withSubs .data [9]).holdMessage [0x04, 0, 0])) =
      some [.sink ⟨9, .data, 0x04, []⟩] ∧
    after (·.trace) (exec .dispatchResponse (State.reset.holdMessage [0x00, 0, 0])) = some [.diag (.dropped 0 0)] ∧
    slotOf 0x0C = .unknown ∧ (State.reset.holdMessage [0x0C, 0, 0]).busy = false ∧
    after (·.trace) (step (State.reset.holdMessage [0x0C, 0, 0])) = some [.diag (.dropped 0x0C 0)] := by
  decide

/-- Witness of SelectorsDispatch, the other selectors, and two subscribers served in the order of their row (R102). -/
theorem test_witness_selectors_all :
    after (·.trace) (exec .dispatchResponse ((withSubs .response [3]).holdMessage [0x00, 1, 0, 7])) =
      some [.sink ⟨3, .response, 0x00, [7]⟩] ∧
    after (·.trace) (exec .dispatchDebug ((withSubs .debug [2, 1]).holdMessage [0x01, 0, 0])) =
      some [.sink ⟨2, .debug, 0x01, []⟩, .sink ⟨1, .debug, 0x01, []⟩] ∧
    after (·.trace) (exec .dispatchStatus ((withSubs .status [4]).holdMessage [0x02, 0, 0])) =
      some [.sink ⟨4, .status, 0x02, []⟩] ∧
    after (·.trace) (exec .dispatchFft (State.reset.holdMessage [0x08, 0, 0, 9])) = some [.diag (.dropped 0x08 1)] ∧
    after (·.trace) (step ((withSubs .unknown [6]).holdMessage [0x03, 0, 0])) =
      some [.sink ⟨6, .unknown, 0x03, []⟩] := by
  decide

/-- Witness of SelectorsNeedAHeader: no message, and a message of two bytes. -/
theorem test_witness_no_header :
    faultOf (exec .dispatchDebug State.reset) = some .noHeader ∧
    faultOf (exec .dispatchFft (State.reset.holdMessage [0x08, 0])) = some .noHeader := by
  decide

/-- Witness of DeliveryAtMostOncePerRecv: a table without repeats, and a `RECV` that delivers once to each. -/
theorem test_witness_table : TableOk (withSubs .fft [5, 4]) := by
  intro slot; cases slot <;> decide

/-- Witness of HeaderReadIsADecode: messages of three bytes and of two (R99, vector F6). -/
theorem test_witness_header :
    decodeResult envHdr [0x02, 0x34, 0x12] = .decoded [.num 2, .num 0x1234] ∧
    decodeResult envHdr [0x02, 0x05] = .failed (.bufferTooSmallError 3 2) := by
  decide

/-- Witness of RequestsReadOnlyTheirState: two states that differ in all else and agree on the register read; and a
refusal (R6) in both. -/
theorem test_witness_reads :
    (withSubs .fft [5]).subtab = { (withSubs .fft [5]).setConn true with rq := [.connected], fi := 7 }.subtab ∧
    after (·.trace) (exec (.recv [8, 0, 0]) { (withSubs .fft [5]).setConn true with rq := [.connected], fi := 7 }) =
      after (·.trace) (exec (.recv [8, 0, 0]) (withSubs .fft [5])) ∧
    after (·.subtab) (exec (.subscribe .fft 6) { (withSubs .fft [5]).setConn true with rq := [.connected] }) =
      after (·.subtab) (exec (.subscribe .fft 6) (withSubs .fft [5])) ∧
    online.conn = ((withSubs .fft [5]).setConn true).conn ∧
    after (·.trace) (exec (.send [1]) online) = after (·.trace) (exec (.send [1]) ((withSubs .fft [5]).setConn true)) ∧
    refusal (exec (.recv [0, 0, 0, 0]) { withSubs .fft [5] with cap := small }) = some .messageTooLong ∧
    refusal (exec (.recv [0, 0, 0, 0]) { (withSubs .fft [5]).setConn true with cap := small }) =
      some .messageTooLong := by
  decide

/-! ## Codec operations -/

/-- Witness of EncodeReportsTheFirstFault, clause by clause: the count before the tag (R72 (f)), an unknown tag, a
class mismatch (R138), and a passing check. -/
theorem test_witness_encode_check :
    encodeCheck [12] [] = .error (.formatError (.count 1 0)) ∧
    encodeCheck [1, 12] [.num 0, .num 0] = .error (.formatError (.unknownTag 1 12)) ∧
    encodeCheck [7] [.num 1] = .error (.typeMismatchError 0 .uint64 .num) ∧
    encodeCheck [1, 1, 9] [.num 0x10, .num 0, .bytes [3]] = .ok 3 := by
  refine ⟨?_, ?_, ?_, ?_⟩ <;> rfl

/-- Witness of the class clauses of EncodeEightByteFields and EncodeRawField, at the second field: R79 and R138 (a
`NUM` in a 64-bit field), R82 (a `NUM` in a `rawTail` field, a `BYTES` in a `uint8` field). -/
theorem test_witness_second_field :
    PassBefore [1, 6] [.num 0, .num 1] 1 ∧
    encodeCheck [1, 6] [.num 0, .num 1] = .error (.typeMismatchError 1 .int64 .num) ∧
    encodeCheck [1, 7] [.num 0, .num 1] = .error (.typeMismatchError 1 .uint64 .num) ∧
    encodeCheck [1, 9] [.num 0, .num 1] = .error (.typeMismatchError 1 .rawTail .num) ∧
    encodeCheck [1, 1] [.num 0, .bytes []] = .error (.typeMismatchError 1 .uint8 .bytes) := by
  refine ⟨⟨rfl, ?_⟩, rfl, rfl, rfl, rfl⟩
  intro j d y hj hd hy
  obtain rfl : j = 0 := by omega
  cases hd
  cases hy
  exact ⟨.uint8, rfl, rfl⟩

/-- Witness of DecodeReportsTheFirstFault, clause by clause: vectors F5, F1, F6 and the length that just suffices. -/
theorem test_witness_decode_check :
    decodeCheck [1, 12] 0 = .error (.formatError (.unknownTag 1 12)) ∧
    decodeCheck [9, 1] 0 = .error (.formatError (.rawTailNotLast 0)) ∧
    decodeCheck [1, 3] 2 = .error (.bufferTooSmallError 3 2) ∧ decodeCheck [1, 3] 3 = .ok 3 ∧
    rawOnlyLast [1, 3] = true := by
  refine ⟨?_, ?_, ?_, ?_, ?_⟩ <;> rfl

/-- Witness of ErrorsArePrecise: a failing `ENCODE`, a failing `DECODE`. -/
theorem test_witness_errors :
    after (fun t => (t.codecResults, t.status.code, t.busy)) (step (given [.encode [7] [.num 1]])) =
      some ([.failed (.typeMismatchError 0 .uint64 .num)], 2, false) ∧
    after (fun t => (t.codecResults, t.status.code, t.inputs)) (step (given [.decode [1] [], .pd])) =
      some ([.failed (.bufferTooSmallError 1 0)], 3, [.pd]) := by
  decide

/-- Witness of OutOfRangeValueIsRefused and of OnlyOutOfRangeIsRefused (R70): 256 in a `uint8` field. -/
theorem test_witness_out_of_range :
    (given [.encode [1] [.num 256]]).cap = Config.Capacities.unbounded ∧
    canonical .uint8 (.num 256) = false ∧ firstOutOfRange 0 [1] [.num 256] = some 0 ∧
    refusal (step (given [.encode [1] [.num 256]])) = some (.valueOutOfRange 0) := by
  decide

theorem test_out_of_range_passes_the_checks : encodeCheck [1] [.num 256] = .ok 1 := rfl

/-- Witness of OverCapacityIsRefused, codec clauses (R6), at lengths one above the capacity. -/
theorem test_witness_over_capacity :
    refusal (step { given [.encode [1, 1] [.num 0, .num 0]] with cap := small }) = some .descriptorTooLong ∧
    refusal (step { given [.encode [5] [.num 0]] with cap := small }) = some .bufferTooLong ∧
    refusal (step { given [.encode [9] [.bytes [0, 0, 0]]] with cap := small }) = some .bufferTooLong ∧
    refusal (step { given [.decode [1, 1] []] with cap := small }) = some .descriptorTooLong ∧
    refusal (step { given [.decode [1] [0, 0, 0]] with cap := small }) = some .bufferTooLong ∧
    refusal (exec (.subscribe .fft 2) { withSubs .fft [1] with cap := small }) = some (.rowFull .fft) := by
  decide

/-- Witness of OverCapacityIsRefused, arrivals (U5): a queue of depth one that holds one request refuses each of the
five. -/
theorem test_witness_full_queue :
    ∀ i ∈ [Input.tin (.onMessage [2]), .tin .onConnected, .tin .onDisconnected, .req (.send [1]),
        .req (.subscribe .data 3)],
      refusal (step { given [i] with cap := small, rq := [.connected] }) = some .queueFull := by
  decide

/-- Vectors S7, E21 and E22 (`ENCODE`), and the empty descriptor (R72 (a)); the first is the witness of
EncodeIsOneTransaction and of the first half of CodecRoundTrip. -/
theorem test_witness_encode_vectors :
    encodeResult command [.num 0x10, .num 0x00, .bytes [0x03]] = some (.encoded [0x10, 0x00, 0x03]) ∧
    rawOnlyLast command = true ∧
    encodeResult (descriptor [.rawTail, .uint16, .rawTail]) [.bytes [0xAA, 0xBB], .num 0x0102, .bytes []] =
      some (.encoded [0xAA, 0xBB, 0x02, 0x01]) ∧
    encodeResult [] [] = some (.encoded []) := by
  decide

/-- Program P4, operations B and D, and vector F12 (`DECODE`); the first is the witness of DecodeIsOneTransaction and of
the second half of CodecRoundTrip without a tail, the last of that half with one. -/
theorem test_witness_decode_vectors :
    decodeResult measurement [1, 1, 1, 0x10, 0, 1, 0, 4, 2] =
      .decoded [.num 1, .num 1, .num 1, .num 16, .num 1, .num 1024, .num 2] ∧
    fixedSize measurement = 9 ∧ rawOnlyLast measurement = true ∧ Tag.rawTail.code ∉ measurement ∧
    decodeResult measurement [7, 0x23, 0, 0xFF, 0xFF, 0, 0, 1] = .failed (.bufferTooSmallError 9 8) ∧
    decodeResult (descriptor [.uint8, .rawTail]) [1, 2] = .decoded [.num 1, .bytes [2]] ∧
    (descriptor [.uint8, .rawTail]).getLast? = some Tag.rawTail.code := by
  decide

/-- The sizes R63 states for the named descriptors, and the mask of R58. -/
theorem test_named_descriptors :
    fixedSize envHdr = 3 ∧ fixedSize envelope = 3 ∧ fixedSize command = 2 ∧ fixedSize statusCode = 1 ∧
    fixedSize responsePayload = 1 ∧ fixedSize stateHdr = 21 ∧ fixedSize spectrumMeta = 21 ∧
    fixedSize spectrumPacket = 21 ∧ typeMask [0x01, 0x02] = 0x03 := by
  decide

/-- The codes of R113 and R116. -/
theorem test_codes :
    Status.ok.code = 0 ∧ (CodecError.formatError (.count 1 0)).code = 1 ∧
    (CodecError.typeMismatchError 0 .int8 .big).code = 2 ∧ (CodecError.bufferTooSmallError 3 2).code = 3 ∧
    SendResult.notConnectedError.code = 4 ∧ (DiagEvent.shortMessage 0).code = 1 ∧
    (DiagEvent.protocolInconsistencyWarning 1 0).code = 2 ∧ (DiagEvent.dropped 0 0).code = 3 := by
  decide

/-! ## The step -/

/-- Witness of StepRunsTheDecodedInstruction, clause by clause. -/
theorem test_witness_step_runs :
    ((encAt .uint8 (.num 5) 1).busy = true ∧ (encAt .uint8 (.num 5) 1).desc[0]? = some 1) ∧
    ((State.reset.holdMessage [0x02, 0, 0]).busy = false ∧
      (State.reset.holdMessage [0x02, 0, 0]).msg = some (0x02 :: [0, 0])) ∧
    (Idle { State.reset with rq := [.connected] } ∧ Request.code .connected = .req 3 .none ∧
      after (fun t => (t.conn, t.rq)) (step { State.reset with rq := [.connected] }) = some (true, [])) ∧
    (Idle { given [.pd, .pd] with rq := [.connected] } ∧
      after (fun t => (t.conn, t.rq, t.inputs)) (step { given [.pd, .pd] with rq := [.connected] }) =
        some (true, [], [.pd])) := by
  refine ⟨by decide, by decide, ⟨⟨rfl, rfl⟩, by decide, by decide⟩, ⟨rfl, rfl⟩, by decide⟩

/-- Witness of StepWaitsOrFinishes: a turn of `PD` with nothing in `RQ`; reset; and an operation at its end, in
each mode. -/
theorem test_witness_step_waits :
    after id (step (given [.pd, .tin .onConnected])) = some (given [.tin .onConnected]) ∧
    after id (step State.reset) = some State.reset ∧
    after (·.codecResults) (step { encAt .uint8 (.num 5) 1 with fi := 1, buf := [5] }) = some [.encoded [5]] ∧
    after (·.codecResults) (step { decAt .uint8 [5] with fi := 1, v := [.num 5] }) = some [.decoded [.num 5]] := by
  decide

/-- Witness of ArrivalsEnterTheQueueInOrder: a message arrives behind a waiting request. -/
theorem test_witness_arrival :
    after (·.rq) (step { given [.tin (.onMessage [1])] with rq := [.connected] }) = some [.connected, .recv [1]] ∧
    after (·.rq) (step (given [.req (.subscribe .fft 3)])) = some [.subscribe .fft 3] ∧
    after (·.rq) (step (given [.tin .onDisconnected])) = some [.disconnected] := by
  decide

/-- Witness of EncodeIsOneTransaction and DecodeIsOneTransaction: the state before each operation. -/
theorem test_witness_idle :
    Idle (given [.encode command [.num 0x10, .num 0x00, .bytes [0x03]]]) ∧
    Idle (given [.decode measurement [1, 1, 1, 0x10, 0, 1, 0, 4, 2]]) :=
  ⟨⟨rfl, rfl⟩, rfl, rfl⟩

/-- Witness of StepKeepsTheInvariant, StepNeverFaults and OnlyOutOfRangeIsRefused: any list of inputs leaves reset's
invariant true, and the state of the last two tests is such a state. -/
theorem test_witness_invariant (l : List Input) : Inv (given l) where
  table := by intro slot; cases slot <;> exact ⟨List.Pairwise.nil, rfl⟩
  queue := rfl
  noMessage := rfl
  codec := by intro h; cases h

/-- Witness of SubscriptionsAndTracesOnlyGrow, with a change of `CONN`. -/
theorem test_witness_grow :
    after (fun t => (t.conn, t.trace)) (step { State.reset with rq := [.connected] }) =
      some (true, [.life .connected]) := by
  decide

/-- Witness of UnitsAreSeparate: an instruction of each unit that answers a next state. -/
theorem test_witness_units :
    IsMicroOp .encUint8 ∧ ¬ IsMicroOp .connected ∧
    (after (·.fi) (exec .encUint8 (encAt .uint8 (.num 5) 1))).isSome = true ∧
    (after (·.fi) (exec .connected State.reset)).isSome = true := by
  refine ⟨⟨.encode, .uint8, rfl⟩, ?_, by decide, by decide⟩
  rintro ⟨m, t, h⟩
  cases m <;> cases t <;> cases h

/-- Witness of OperationsForgetWhatRanBefore: an `ENCODE` and a `DECODE` that start, after reset and where other values
stand in the registers of `SC` (R21). -/
theorem test_witness_forgets :
    after (fun t => (t.busy, t.desc, t.fi, t.size)) (step (given [.encode [1] [.num 5]])) =
      some (true, [1], 0, 1) ∧
    after (fun t => (t.busy, t.desc, t.fi, t.size))
      (step { given [.encode [1] [.num 5]] with
        status := .error (.bufferTooSmallError 1 0), mode := .decode, desc := [9], fi := 7, off := 3, size := 8 }) =
        some (true, [1], 0, 1) ∧
    after (fun t => (t.busy, t.desc, t.buf)) (step { given [.decode [1] [5]] with fi := 7, conn := true }) =
      some (true, [1], [5]) := by
  decide

/-- Witness of QueueDrains: two waiting requests. -/
theorem test_witness_queue :
    Idle { State.reset with rq := [.connected, .disconnected] } ∧
    after (fun t => (t.rq, t.life)) (steps 2 { State.reset with rq := [.connected, .disconnected] }) =
      some ([], [.connected, .disconnected]) :=
  ⟨⟨rfl, rfl⟩, by decide⟩

end Sys2Proof.Tests
end

section
/-! PROOFS. The statements of the family 00_scope.md: the bytes of a memory write, subscriptions and capacities,
refusals of out-of-range values, and each codec operation as one transaction. -/

namespace Sys2Proof.Proofs

open Sys2Proof Sys2Proof.Machine Sys2Proof.Safety

/-! ## Bytes -/

/-- Settles O6: a write that fits splices the bytes of the pattern in, and the splice laws say the rest. -/
theorem readAfterWriteIsLittleEndian : Obligations.ReadAfterWriteIsLittleEndian := by
  intro b off n v hfit hv
  have hl : off + (leBytes n v).length ≤ b.length := by simpa using hfit
  refine ⟨_, (writeBytes_eq_some_iff b _ off _).2 ⟨hl, rfl⟩, splice_length hl, fun k hk => ?_, fun a ha => ?_, ?_⟩
  · rw [splice_getElem?_inside hl (by simpa using hk), leBytes_getElem? n v k hk, Nat.pow_mul]
  · exact splice_getElem?_outside hl (by simpa using ha)
  · rw [memRead_eq_some_iff, splice_length hl]
    have hread := splice_drop_take hl
    rw [leBytes_length] at hread
    rw [leBytes_length, hread, leNat_leBytes, Nat.mod_eq_of_lt hv]
    exact ⟨hfit, rfl⟩

/-! ## Subscriptions and capacities -/

theorem execSubscribe_known {s : State} {slot : Slot} {x : Config.SinkId} (h : x ∈ s.subtab.row slot) :
    execSubscribe slot x s = .next s := by
  simp [execSubscribe, h]

theorem execSubscribe_room {s : State} {slot : Slot} {x : Config.SinkId} (h : x ∉ s.subtab.row slot)
    (hc : Config.within s.cap.subMax ((s.subtab.row slot).length + 1) = true) :
    execSubscribe slot x s = .next (s.setRow slot (s.subtab.row slot ++ [x])) := by
  simp [execSubscribe, h, hc]

theorem execSubscribe_full {s : State} {slot : Slot} {x : Config.SinkId} (h : x ∉ s.subtab.row slot)
    (hc : Config.within s.cap.subMax ((s.subtab.row slot).length + 1) = false) :
    execSubscribe slot x s = .refused (.rowFull slot) := by
  simp [execSubscribe, h, hc]

/-- Settles O26: the three cases of `execSubscribe`, and a replaced row changes no other. -/
theorem subscribeAppendsOnce : Obligations.SubscribeAppendsOnce := by
  refine ⟨fun slot x => decode_code (.subscribe slot x), fun s slot x => ⟨execSubscribe_known, fun h hc => ?_,
    execSubscribe_full⟩⟩
  exact ⟨_, execSubscribe_room h hc, rfl, SubTab.row_setRow_same _ _ _,
    fun other ho => SubTab.row_setRow_other _ _ ho⟩

theorem execSend_tooLong {s : State} {b : Bytes} (hw : Config.within s.cap.msgMax b.length = false) :
    execSend b s = .refused .messageTooLong := by
  simp [execSend, hw]

/-! The start of an `ENCODE`, where it does not load the registers. -/

section StartEncode

variable {s : State} {desc : List TagCode} {vals : List Value}

theorem startEncode_descriptorTooLong (hd : Config.within s.cap.descMax desc.length = false) :
    startEncode desc vals s = .refused .descriptorTooLong := by
  simp [startEncode, hd]

theorem startEncode_rawTooLong (hd : Config.within s.cap.descMax desc.length = true)
    (hr : vals.all (rawFits s.cap) = false) : startEncode desc vals s = .refused .bufferTooLong := by
  simp only [startEncode, hd, hr, if_true, Bool.false_eq_true, if_false]

variable (hd : Config.within s.cap.descMax desc.length = true) (hr : vals.all (rawFits s.cap) = true)

include hd hr

theorem startEncode_failed {e : CodecError} (he : encodeCheck desc vals = .error e) :
    startEncode desc vals s = .next (s.raise e) := by
  simp only [startEncode, hd, hr, he, if_true]

theorem startEncode_outOfRange {size i : Nat} (he : encodeCheck desc vals = .ok size)
    (hf : firstOutOfRange 0 desc vals = some i) : startEncode desc vals s = .refused (.valueOutOfRange i) := by
  simp only [startEncode, hd, hr, he, hf, if_true]

theorem startEncode_sizeTooLong {size : Nat} (he : encodeCheck desc vals = .ok size)
    (hf : firstOutOfRange 0 desc vals = none) (hs : Config.within s.cap.bufMax size = false) :
    startEncode desc vals s = .refused .bufferTooLong := by
  simp only [startEncode, hd, hr, he, hf, hs, if_true, Bool.false_eq_true, if_false]

theorem startEncode_loads {size : Nat} (he : encodeCheck desc vals = .ok size)
    (hf : firstOutOfRange 0 desc vals = none) (hs : Config.within s.cap.bufMax size = true) :
    startEncode desc vals s = .next (s.beginOperation .encode desc vals size (freshBuf s.allocs size)) := by
  simp only [startEncode, hd, hr, he, hf, hs, if_true]

end StartEncode

/-! The start of a `DECODE`. -/

section StartDecode

variable {s : State} {desc : List TagCode} {bytes : Bytes}

theorem startDecode_descriptorTooLong (hd : Config.within s.cap.descMax desc.length = false) :
    startDecode desc bytes s = .refused .descriptorTooLong := by
  simp [startDecode, hd]

theorem startDecode_inputTooLong (hd : Config.within s.cap.descMax desc.length = true)
    (hb : Config.within s.cap.bufMax bytes.length = false) :
    startDecode desc bytes s = .refused .bufferTooLong := by
  simp [startDecode, hd, hb]

variable (hd : Config.within s.cap.descMax desc.length = true)
  (hb : Config.within s.cap.bufMax bytes.length = true)

include hd hb

theorem startDecode_failed {e : CodecError} (he : decodeCheck desc bytes.length = .error e) :
    startDecode desc bytes s = .next (s.raise e) := by
  simp only [startDecode, hd, hb, he, if_true]

theorem startDecode_loads {size : Nat} (he : decodeCheck desc bytes.length = .ok size) :
    startDecode desc bytes s =
      .next (s.beginOperation .decode desc (freshSlots s.allocs desc.length) size bytes) := by
  simp only [startDecode, hd, hb, he, if_true]

end StartDecode

/-- An arrival of any kind at a full queue is refused: the environment's move does not change the queue's length. -/
theorem step_arrival_full {s : State} {rest : List Input} (hi : Idle s)
    (hq : Config.within s.cap.rqMax (s.rq.length + 1) = false) :
    (∀ e, s.inputs = .tin e :: rest → step s = .refused .queueFull) ∧
    (∀ r, s.inputs = .req r :: rest → step s = .refused .queueFull) :=
  ⟨fun _ hn => (step_tin hi hn).trans (enqueue_full hq), fun _ hn => (step_req hi hn).trans (enqueue_full hq)⟩

/-- Settles O39: each capacity is tested before anything is written. -/
theorem overCapacityIsRefused : Obligations.OverCapacityIsRefused := by
  refine ⟨fun s m => execRecv_tooLong, fun s b => execSend_tooLong, fun s desc vals rest hi hn => ?_,
    fun s desc bytes rest hi hn => ?_, fun s slot x => execSubscribe_full, fun s rest hi hq => ?_⟩
  · rw [step_encode hi hn]
    exact ⟨fun hd => startEncode_descriptorTooLong hd, fun hd hr => startEncode_rawTooLong hd hr,
      fun size hd hr he hf hs => startEncode_sizeTooLong hd hr he hf hs⟩
  · rw [step_decode hi hn]
    exact ⟨fun hd => startDecode_descriptorTooLong hd, fun hd hb => startDecode_inputTooLong hd hb⟩
  · obtain ⟨htin, hreq⟩ := step_arrival_full (rest := rest) hi hq
    exact ⟨fun b => htin _, htin _, htin _, fun b => hreq _, fun slot x => hreq _⟩

/-! ## Out-of-range values -/

/-- With field `k` out of range, the first out-of-range field stands at or before it. -/
theorem firstOutOfRange_le {desc : List TagCode} {vals : List Value} {k : Nat} {c : TagCode} {t : Tag} {x : Value}
    (i : Nat) (hc : desc[k]? = some c) (hx : vals[k]? = some x) (ht : Tag.ofCode c = some t)
    (hk : canonical t x = false) : ∃ j, j ≤ k ∧ firstOutOfRange i desc vals = some (i + j) := by
  induction k generalizing i desc vals with
  | zero =>
    match desc, vals, hc, hx with
    | _ :: _, _ :: _, rfl, rfl => exact ⟨0, Nat.le_refl _, by simp [firstOutOfRange, ht, hk]⟩
  | succ k ih =>
    match desc, vals, hc, hx with
    | d :: ds, y :: ys, hc, hx =>
      obtain ⟨j, hj, hf⟩ := ih (desc := ds) (vals := ys) (i + 1) (by simpa using hc) (by simpa using hx)
      have hnext : ∃ j, j ≤ k + 1 ∧ firstOutOfRange (i + 1) ds ys = some (i + j) :=
        ⟨j + 1, by omega, by rw [hf]; congr 1; omega⟩
      unfold firstOutOfRange
      split
      · exact hnext
      · split
        · exact hnext
        · exact ⟨0, by omega, rfl⟩

/-- Settles O38: the start of the operation refuses at the first out-of-range field. -/
theorem outOfRangeValueIsRefused : Obligations.OutOfRangeValueIsRefused := by
  intro s desc vals rest size k c t x hi hn hd hr he hc hx ht hk
  obtain ⟨i, hik, hf⟩ := firstOutOfRange_le 0 hc hx ht hk
  rw [Nat.zero_add] at hf
  exact ⟨i, hik, (step_encode hi hn).trans (startEncode_outOfRange (s := s.setInputs rest) hd hr he hf)⟩

/-! ## Values that fit their fields -/

theorem fieldFits_iff {c : TagCode} {x : Value} :
    fieldFits c x = true ↔ ∃ t, Tag.ofCode c = some t ∧ x.cls = classOf t ∧ canonical t x = true := by
  unfold fieldFits
  cases Tag.ofCode c <;> simp

theorem fieldsFit_cons {c : TagCode} {x : Value} {cs : List TagCode} {xs : List Value} {k : Nat} :
    FieldsFit (c :: cs) (x :: xs) (k + 1) ↔ fieldFits c x = true ∧ FieldsFit cs xs k := by
  refine ⟨fun h => ⟨h 0 c x (by omega) rfl rfl, fun i d y hi hd hy => h (i + 1) d y (by omega) hd hy⟩, ?_⟩
  rintro ⟨h0, h⟩ i d y hi hd hy
  cases i with
  | zero => cases hd; cases hy; exact h0
  | succ i => exact h i d y (by omega) hd hy

/-- When the check phase passes and no lane is out of range, every value fits its field. -/
theorem fieldsFit_of_encodeCheck {desc : List TagCode} {vals : List Value} {size : Nat}
    (he : encodeCheck desc vals = .ok size) (hf : firstOutOfRange 0 desc vals = none) :
    FieldsFit desc vals desc.length := by
  obtain ⟨-, hpass, -⟩ := encodeCheck_ok he
  intro i c x _ hc hx
  obtain ⟨t, ht, hcls⟩ := hpass i c x hc hx
  exact fieldFits_iff.2 ⟨t, ht, hcls, (firstOutOfRange_none_iff 0 desc vals).1 hf i c x t hc hx ht⟩

theorem isSome_ofCode_of_fieldsFit {desc : List TagCode} {vals : List Value} (hl : vals.length = desc.length)
    (hfit : FieldsFit desc vals desc.length) : ∀ c ∈ desc, (Tag.ofCode c).isSome = true := by
  intro c hc
  obtain ⟨i, hi, rfl⟩ := List.mem_iff_getElem.1 hc
  obtain ⟨t, ht, -⟩ := fieldFits_iff.1 (hfit i _ _ hi (List.getElem?_eq_getElem hi)
    (List.getElem?_eq_getElem (by omega : i < vals.length)))
  simp [ht]

/-! ## An operation that starts is as R16 says -/

theorem codecRunning_begin_encode {s : State} {desc : List TagCode} {vals : List Value} {size : Nat}
    (he : encodeCheck desc vals = .ok size) (hf : firstOutOfRange 0 desc vals = none) :
    CodecRunning (s.beginOperation .encode desc vals size (freshBuf s.allocs size)) := by
  obtain ⟨hl, -, hsize⟩ := encodeCheck_ok he
  have hfit := fieldsFit_of_encodeCheck he hf
  exact ⟨isSome_ofCode_of_fieldsFit hl.symm hfit, hl.symm, Nat.zero_le _, rfl, hfit, hsize, freshBuf_length _ _⟩

theorem codecRunning_begin_decode {s : State} {desc : List TagCode} {bytes : Bytes} {size : Nat}
    (he : decodeCheck desc bytes.length = .ok size) :
    CodecRunning (s.beginOperation .decode desc (freshSlots s.allocs desc.length) size bytes) := by
  obtain ⟨htags, hraw, hsize, hle⟩ := decodeCheck_ok he
  exact ⟨htags, freshSlots_length _ _, Nat.zero_le _, rfl, hraw, hsize, hle, fun i _ _ hi => absurd hi (by simp)⟩

/-! ## What is never refused -/

theorem storeField_ne_refused (s : State) (bs : Bytes) (r : Refusal) : storeField s bs ≠ .refused r := by
  rw [storeField_eq]; split <;> exact nofun

theorem loadSlot_ne_refused (s : State) (n : Nat) (x : Value) (r : Refusal) : loadSlot s n x ≠ .refused r := by
  rw [loadSlot_eq]; split <;> exact nofun

theorem loadFixed_ne_refused (n : Nat) (k : Nat → Value) (s : State) (r : Refusal) :
    loadFixed n k s ≠ .refused r := by
  unfold loadFixed
  split
  · exact loadSlot_ne_refused _ _ _ _
  · exact nofun

theorem loadRaw_ne_refused (s : State) (r : Refusal) : loadRaw s ≠ .refused r := by
  unfold loadRaw
  split
  · exact loadSlot_ne_refused _ _ _ _
  · exact nofun

theorem exec_decode_ne_refused (t : Tag) (s : State) (r : Refusal) : exec (microOp .decode t) s ≠ .refused r := by
  cases t
  case rawTail => exact loadRaw_ne_refused s r
  all_goals exact loadFixed_ne_refused _ _ s r

theorem dispatchTo_ne_refused (slot : Slot) (s : State) (r : Refusal) : dispatchTo slot s ≠ .refused r := by
  obtain ⟨_, _, _, _, -, h⟩ | ⟨-, h⟩ := dispatchTo_eq slot s <;> simp [h]

/-- A micro-operation of an operation in progress is not refused: its value was checked at the start (R68, R70). -/
theorem exec_microOp_ne_refused {s : State} {c : TagCode} {t : Tag} (hrun : CodecRunning s)
    (hc : s.desc[s.fi]? = some c) (ht : Tag.ofCode c = some t) (r : Refusal) :
    exec (microOp s.mode t) s ≠ .refused r := by
  obtain ⟨-, hl, -, -, hmode⟩ := hrun
  cases hm : s.mode with
  | decode => exact exec_decode_ne_refused t s r
  | encode =>
    rw [hm] at hmode
    obtain ⟨hfit, -, -⟩ := hmode
    obtain ⟨hi, -⟩ := List.getElem?_eq_some_iff.1 hc
    have hx : s.v[s.fi]? = some s.v[s.fi] := List.getElem?_eq_getElem (by omega)
    obtain ⟨t', ht', hcls, hk⟩ := fieldFits_iff.1 (hfit _ _ _ hi hc hx)
    obtain rfl : t = t' := Option.some.inj (ht.symm.trans ht')
    rw [exec_encode_of_slot hx hcls hk]
    exact storeField_ne_refused _ _ _

/-! ## Unbounded capacities -/

section Unbounded

variable {s : State} (hcap : s.cap = Config.Capacities.unbounded)

include hcap

theorem all_rawFits_of_unbounded (vals : List Value) : vals.all (rawFits s.cap) = true := by
  rw [hcap, List.all_eq_true]
  intro x _
  cases x <;> rfl

theorem enqueue_ne_refused (q : Request) (r : Refusal) : enqueue s q ≠ .refused r := by
  rw [enqueue_fits (by rw [hcap]; rfl)]; exact nofun

theorem execSubscribe_ne_refused (slot : Slot) (x : Config.SinkId) (r : Refusal) :
    execSubscribe slot x s ≠ .refused r := by
  by_cases hx : x ∈ s.subtab.row slot
  · rw [execSubscribe_known hx]; exact nofun
  · rw [execSubscribe_room hx (by rw [hcap]; rfl)]; exact nofun

theorem execSend_ne_refused (b : Bytes) (r : Refusal) : execSend b s ≠ .refused r := by
  have hw : Config.within s.cap.msgMax b.length = true := by rw [hcap]; rfl
  cases hc : s.conn with
  | true => rw [execSend_connected hw hc]; exact nofun
  | false => rw [execSend_notConnected hw hc]; exact nofun

theorem execRecv_ne_refused (m : Bytes) (r : Refusal) : execRecv m s ≠ .refused r := by
  have hw (n : Nat) : Config.within s.cap.msgMax n = true := by rw [hcap]; rfl
  by_cases hl : m.length < 3
  · rw [execRecv_short (hw _) hl]; exact nofun
  · obtain ⟨t, l0, l1, p, rfl⟩ := exists_header hl
    rw [execRecv_header (hw _)]; exact nofun

theorem exec_request_ne_refused (q : Request) (r : Refusal) : exec (instrOf q) s ≠ .refused r := by
  cases q with
  | recv m => exact execRecv_ne_refused hcap m r
  | send b => exact execSend_ne_refused hcap b r
  | subscribe slot x => exact execSubscribe_ne_refused hcap slot x r
  | connected => exact nofun
  | disconnected => exact nofun

theorem startDecode_ne_refused (desc : List TagCode) (bytes : Bytes) (r : Refusal) :
    startDecode desc bytes s ≠ .refused r := by
  have hd : Config.within s.cap.descMax desc.length = true := by rw [hcap]; rfl
  have hb : Config.within s.cap.bufMax bytes.length = true := by rw [hcap]; rfl
  cases he : decodeCheck desc bytes.length with
  | error e => rw [startDecode_failed hd hb he]; exact nofun
  | ok size => rw [startDecode_loads hd hb he]; exact nofun

/-- All the start of an `ENCODE` can be refused for (R70). -/
theorem startEncode_refused {desc : List TagCode} {vals : List Value} {r : Refusal}
    (h : startEncode desc vals s = .refused r) :
    ∃ i, r = .valueOutOfRange i ∧ (∃ size, encodeCheck desc vals = .ok size) ∧
      firstOutOfRange 0 desc vals = some i := by
  have hd : Config.within s.cap.descMax desc.length = true := by rw [hcap]; rfl
  have hr := all_rawFits_of_unbounded hcap vals
  cases he : encodeCheck desc vals with
  | error e => rw [startEncode_failed hd hr he] at h; cases h
  | ok size =>
    cases hf : firstOutOfRange 0 desc vals with
    | none => rw [startEncode_loads hd hr he hf (by rw [hcap]; rfl)] at h; cases h
    | some i =>
      rw [startEncode_outOfRange hd hr he hf] at h
      cases h
      exact ⟨i, rfl, ⟨size, rfl⟩, rfl⟩

end Unbounded

/-- Settles O49: of all that can move, only the start of an `ENCODE` is ever refused. -/
theorem onlyOutOfRangeIsRefused : Obligations.OnlyOutOfRangeIsRefused := by
  intro s r hinv hcap h
  cases stepCase s with
  | micro c t hb hc ht hs => exact absurd (hs.symm.trans h) (exec_microOp_ne_refused (hinv.codec hb) hc ht r)
  | unknownTag c _ _ _ hs => rw [hs] at h; cases h
  | finish _ _ hs => rw [hs] at h; cases h
  | emptyMessage _ _ hs => rw [hs] at h; cases h
  | selector t m _ _ hs => exact absurd (hs.symm.trans h) (dispatchTo_ne_refused _ _ r)
  | wait _ _ _ hs => rw [hs] at h; cases h
  | request q l rest _ _ _ hs =>
    exact absurd (hs.symm.trans h) (exec_request_ne_refused (s := (s.setInputs rest).setRq l) hcap q r)
  | emptyTurn rest _ _ _ hs => rw [hs] at h; cases h
  | arrive q rest _ x _ hs => exact absurd (hs.symm.trans h) (enqueue_ne_refused (s := s.setInputs rest) hcap q r)
  | decode d b rest _ _ hs =>
    exact absurd (hs.symm.trans h) (startDecode_ne_refused (s := s.setInputs rest) hcap d b r)
  | encode d v rest _ hn hs =>
    obtain ⟨i, hr, hsize, hf⟩ := startEncode_refused (s := s.setInputs rest) hcap (hs.symm.trans h)
    exact ⟨i, d, v, rest, hr, hn, hsize, hf⟩

/-! ## Runs of an operation -/

/-- A run that starts an operation, passes through the states `f 0, …, f n`, and ends in `t`. -/
theorem steps_through {f : Nat → State} {n : Nat} {s t : State} (hstart : step s = .next (f 0))
    (hrun : ∀ i, i < n → step (f i) = .next (f (i + 1))) (hend : step (f n) = .next t) :
    steps (n + 2) s = .next t ∧
    ∀ k u, 1 ≤ k → k ≤ n + 1 → steps k s = .next u → ∃ i, i ≤ n ∧ u = f i := by
  have hmid : ∀ i, i ≤ n → steps (i + 1) s = .next (f i) := by
    intro i hi
    induction i with
    | zero => exact steps_of_step 0 hstart
    | succ i ih => rw [steps_add (ih (by omega))]; exact steps_of_step 0 (hrun i (by omega))
  refine ⟨?_, fun k u hk1 hkn hu => ?_⟩
  · exact (steps_add (b := 1) (hmid n (Nat.le_refl n))).trans (steps_of_step 0 hend)
  · obtain ⟨i, rfl⟩ : ∃ i, k = i + 1 := ⟨k - 1, by omega⟩
    rw [hmid i (by omega)] at hu
    cases hu
    exact ⟨i, by omega, rfl⟩

/-! ## Fields one after the other -/

theorem fieldsSize_append {ds es : List TagCode} {xs ys : List Value} (hl : ds.length = xs.length) :
    fieldsSize (ds ++ es) (xs ++ ys) = fieldsSize ds xs + fieldsSize es ys := by
  induction ds generalizing xs with
  | nil => cases xs <;> simp_all [fieldsSize]
  | cons d ds ih =>
    cases xs with
    | nil => simp at hl
    | cons x xs =>
      simp only [List.cons_append, fieldsSize, ih (Nat.succ.inj hl)]
      omega

theorem encodedBytes_append {ds es : List TagCode} {xs ys : List Value} (hl : ds.length = xs.length)
    (ht : ∀ c ∈ ds, (Tag.ofCode c).isSome = true) :
    encodedBytes (ds ++ es) (xs ++ ys) = encodedBytes ds xs ++ encodedBytes es ys := by
  induction ds generalizing xs with
  | nil => cases xs <;> simp_all [encodedBytes]
  | cons d ds ih =>
    cases xs with
    | nil => simp at hl
    | cons x xs =>
      obtain ⟨t, hd⟩ := Option.isSome_iff_exists.1 (ht d (by simp))
      simp only [List.cons_append, encodedBytes, hd, List.append_assoc,
        ih (Nat.succ.inj hl) fun c hc => ht c (List.mem_cons_of_mem _ hc)]

theorem encodedBytes_length {desc : List TagCode} {vals : List Value} (hl : vals.length = desc.length)
    (hfit : FieldsFit desc vals desc.length) : (encodedBytes desc vals).length = fieldsSize desc vals := by
  induction desc generalizing vals with
  | nil => cases vals <;> rfl
  | cons c cs ih =>
    cases vals with
    | nil => simp at hl
    | cons x xs =>
      obtain ⟨hx, hxs⟩ := fieldsFit_cons.1 hfit
      obtain ⟨t, ht, hcls, -⟩ := fieldFits_iff.1 hx
      simp only [encodedBytes, fieldsSize, ht, List.length_append, fieldBytes_length t x hcls,
        ih (Nat.succ.inj hl) hxs]

/-- The first `i + 1` fields are the first `i` and field `i`. -/
theorem take_succ_of_getElem? {desc : List TagCode} {vals : List Value} {i : Nat} {c : TagCode} {x : Value}
    (hc : desc[i]? = some c) (hx : vals[i]? = some x) :
    desc.take (i + 1) = desc.take i ++ [c] ∧ vals.take (i + 1) = vals.take i ++ [x] ∧
      (desc.take i).length = (vals.take i).length := by
  obtain ⟨hi, rfl⟩ := List.getElem?_eq_some_iff.1 hc
  obtain ⟨hj, rfl⟩ := List.getElem?_eq_some_iff.1 hx
  refine ⟨List.take_succ_eq_append_getElem hi, List.take_succ_eq_append_getElem hj, ?_⟩
  rw [List.length_take_of_le (Nat.le_of_lt hi), List.length_take_of_le (Nat.le_of_lt hj)]

/-! ## ENCODE -/

/-- The bytes of the first `i` fields. -/
def encodedPrefix (desc : List TagCode) (vals : List Value) (i : Nat) : Bytes :=
  encodedBytes (desc.take i) (vals.take i)

theorem encodedPrefix_succ {desc : List TagCode} {vals : List Value} {i : Nat} {c : TagCode} {t : Tag} {x : Value}
    (htags : ∀ c ∈ desc, (Tag.ofCode c).isSome = true) (hc : desc[i]? = some c) (hx : vals[i]? = some x)
    (ht : Tag.ofCode c = some t) :
    encodedPrefix desc vals (i + 1) = encodedPrefix desc vals i ++ fieldBytes t x := by
  obtain ⟨hd, hv, hl⟩ := take_succ_of_getElem? hc hx
  rw [encodedPrefix, hd, hv, encodedBytes_append hl fun c hc => htags c (List.mem_of_mem_take hc)]
  simp [encodedPrefix, encodedBytes, ht]

theorem encodedPrefix_length_le {desc : List TagCode} {vals : List Value} (hl : vals.length = desc.length)
    (htags : ∀ c ∈ desc, (Tag.ofCode c).isSome = true) (i : Nat) :
    (encodedPrefix desc vals i).length ≤ (encodedBytes desc vals).length := by
  have h := encodedBytes_append (es := desc.drop i) (ys := vals.drop i)
    (show (desc.take i).length = (vals.take i).length by simp [hl])
    fun c hc => htags c (List.mem_of_mem_take hc)
  rw [List.take_append_drop, List.take_append_drop] at h
  rw [h, List.length_append]
  exact Nat.le_add_right _ _

/-- A loaded `ENCODE` after its first `i` micro-operations: their bytes stand at the front of `BUF`, and `off` is
behind them. -/
def encodeAt (s : State) (i : Nat) : State :=
  { s with
    fi := i
    off := (encodedPrefix s.desc s.v i).length
    buf := encodedPrefix s.desc s.v i ++ s.buf.drop (encodedPrefix s.desc s.v i).length }

theorem encodeAt_zero (s : State) : encodeAt s 0 = { s with fi := 0, off := 0 } := by
  simp [encodeAt, encodedPrefix, encodedBytes]

/-- Bytes written behind a front part extend it. -/
theorem splice_behind (p w b : Bytes) :
    (p ++ b.drop p.length).take p.length ++ w ++ (p ++ b.drop p.length).drop (p.length + w.length) =
      (p ++ w) ++ b.drop (p ++ w).length := by
  simp [List.drop_append, List.drop_drop]

section Encode

variable {s : State} (hmode : s.mode = .encode) (hrun : CodecRunning s)

include hmode hrun

/-- The micro-operation at field `i` takes the operation from `i` fields done to `i + 1` (R67). -/
theorem step_encodeAt (hbusy : s.busy = true) {i : Nat} (hi : i < s.desc.length) :
    step (encodeAt s i) = .next (encodeAt s (i + 1)) := by
  obtain ⟨htags, hl, -, -, henc⟩ := hrun
  rw [hmode] at henc
  obtain ⟨hfit, hsize, hbuf⟩ := henc
  have hc : s.desc[i]? = some s.desc[i] := List.getElem?_eq_getElem hi
  have hx : s.v[i]? = some s.v[i] := List.getElem?_eq_getElem (by omega)
  obtain ⟨t, ht, hcls, hk⟩ := fieldFits_iff.1 (hfit i _ _ hi hc hx)
  have hsucc := encodedPrefix_succ htags hc hx ht
  have hle := encodedPrefix_length_le hl htags (i + 1)
  rw [encodedBytes_length hl hfit, ← hsize, ← hbuf, hsucc, List.length_append, fieldBytes_length t _ hcls] at hle
  rw [step_micro (s := encodeAt s i) hbusy hc ht, show (encodeAt s i).mode = .encode from hmode, exec_encode_iff]
  refine ⟨_, hx, hcls, hk, ?_, ?_⟩
  · simp only [encodeAt, List.length_append, List.length_drop]; omega
  · simp only [afterStore, encodeAt, splice_behind, hsucc, List.length_append]

theorem encodeAt_end :
    encodeAt s s.desc.length =
      { s with fi := s.desc.length, off := s.size, buf := encodedBytes s.desc s.v } := by
  obtain ⟨-, hl, -, -, henc⟩ := hrun
  rw [hmode] at henc
  obtain ⟨hfit, hsize, hbuf⟩ := henc
  have hall : encodedPrefix s.desc s.v s.desc.length = encodedBytes s.desc s.v := by
    rw [encodedPrefix, List.take_length, List.take_of_length_le (Nat.le_of_eq hl)]
  have hlen : (encodedBytes s.desc s.v).length = s.size := (encodedBytes_length hl hfit).trans hsize.symm
  simp [encodeAt, hall, hlen, ← hbuf]

end Encode

theorem encodeResult_encoded {desc : List TagCode} {vals : List Value} {b : Bytes}
    (h : encodeResult desc vals = some (.encoded b)) :
    encodeCheck desc vals = .ok b.length ∧ firstOutOfRange 0 desc vals = none ∧ b = encodedBytes desc vals := by
  unfold encodeResult at h
  split at h
  · cases h
  · rename_i size he
    cases hf : firstOutOfRange 0 desc vals with
    | some i => simp [hf] at h
    | none =>
      obtain rfl : encodedBytes desc vals = b := by simpa [hf] using h
      obtain ⟨hl, -, hsize⟩ := encodeCheck_ok he
      rw [he, hsize, encodedBytes_length hl.symm (fieldsFit_of_encodeCheck he hf)]
      exact ⟨rfl, rfl, rfl⟩

/-- Settles O43: the operation starts, each micro-operation appends its field's bytes, and the end returns them. -/
theorem encodeIsOneTransaction : Obligations.EncodeIsOneTransaction := by
  intro s desc vals rest b hi hn hd hr hres hb
  obtain ⟨he, hf, hbytes⟩ := encodeResult_encoded hres
  let s₀ := (s.setInputs rest).beginOperation .encode desc vals b.length (freshBuf s.allocs b.length)
  have hrun : CodecRunning s₀ := codecRunning_begin_encode he hf
  have hend : s₀.desc[s₀.desc.length]? = none := List.getElem?_eq_none (Nat.le_refl _)
  have hstart : step s = .next (encodeAt s₀ 0) := by
    rw [step_encode hi hn, encodeAt_zero]
    exact startEncode_loads (s := s.setInputs rest) hd hr he hf hb
  obtain ⟨hfinal, hbetween⟩ := steps_through hstart (fun _ => step_encodeAt rfl hrun rfl)
    (step_finish (s := encodeAt s₀ s₀.desc.length) rfl hend)
  rw [encodeAt_end rfl hrun] at hfinal
  refine ⟨⟨_, hfinal, ?_, rfl, rfl, hbytes.symm, rfl, rfl, rfl, ⟨rfl, rfl, rfl, rfl⟩, rfl, rfl⟩, ?_⟩
  · rw [hbytes]; rfl
  · intro k u hk1 hkn hu
    obtain ⟨i, -, rfl⟩ := hbetween k u hk1 hkn hu
    exact ⟨rfl, rfl, ⟨rfl, rfl, rfl, rfl⟩, rfl, rfl, rfl⟩

/-! ## DECODE -/

theorem fieldsSize_take_succ {desc : List TagCode} {vals : List Value} {i : Nat} {c : TagCode} {t : Tag} {x : Value}
    (hc : desc[i]? = some c) (hx : vals[i]? = some x) (ht : Tag.ofCode c = some t) :
    fieldsSize (desc.take (i + 1)) (vals.take (i + 1)) =
      fieldsSize (desc.take i) (vals.take i) + fieldSize t x := by
  obtain ⟨hd, hv, hl⟩ := take_succ_of_getElem? hc hx
  rw [hd, hv, fieldsSize_append hl]
  simp [fieldsSize, ht]

theorem fieldSize_fieldValue (t : Tag) (b : Bytes) :
    fieldSize t (fieldValue t b) = if t = .rawTail then b.length else width t := by
  cases t <;> rfl

theorem decodedValues_length {desc : List TagCode} (htags : ∀ c ∈ desc, (Tag.ofCode c).isSome = true) (b : Bytes) :
    (decodedValues desc b).length = desc.length := by
  induction desc generalizing b with
  | nil => rfl
  | cons c cs ih =>
    obtain ⟨t, ht⟩ := Option.isSome_iff_exists.1 (htags c (by simp))
    simp [decodedValues, ht, ih fun d hd => htags d (List.mem_cons_of_mem _ hd)]

/-- What the check phase of a `DECODE` says of the descriptor and of the input's length (R84, R85). -/
def Decodable (desc : List TagCode) (b : Bytes) : Prop :=
  (∀ c ∈ desc, (Tag.ofCode c).isSome = true) ∧ rawOnlyLast desc = true ∧ fixedSize desc ≤ b.length

/-- The first field lies in the input; with a field behind it, it is of fixed width and the rest is decodable behind
it. -/
theorem decodable_cons {c : TagCode} {cs : List TagCode} {b : Bytes} (h : Decodable (c :: cs) b) :
    ∃ t, Tag.ofCode c = some t ∧ width t ≤ b.length ∧ Decodable cs (b.drop (width t)) ∧
      (cs = [] ∨ t ≠ .rawTail) := by
  obtain ⟨htags, hraw, hle⟩ := h
  obtain ⟨t, ht⟩ := Option.isSome_iff_exists.1 (htags c (by simp))
  simp only [fixedSize, ht] at hle
  simp only [rawOnlyLast, ht, Bool.and_eq_true, Bool.or_eq_true, List.isEmpty_iff, bne_iff_ne, ne_eq,
    Option.some.injEq] at hraw
  exact ⟨t, ht, by omega, ⟨fun d hd => htags d (List.mem_cons_of_mem _ hd), hraw.2,
    by rw [List.length_drop]; omega⟩, hraw.1.symm⟩

/-- Value `i` of a decodable input is read at the end of the fields before it, and its bytes lie in the input. -/
theorem decodedValues_getElem? {desc : List TagCode} {b : Bytes} (h : Decodable desc b) {i : Nat}
    (hi : i < desc.length) :
    ∃ t off, off = fieldsSize (desc.take i) ((decodedValues desc b).take i) ∧ Tag.ofCode desc[i] = some t ∧
      (decodedValues desc b)[i]? = some (fieldValue t (b.drop off)) ∧ off + width t ≤ b.length := by
  induction desc generalizing b i with
  | nil => simp at hi
  | cons c cs ih =>
    obtain ⟨t, ht, hw, hrest, hraw⟩ := decodable_cons h
    cases i with
    | zero => exact ⟨t, 0, rfl, ht, by simp [decodedValues, ht], by omega⟩
    | succ i =>
      have hi' : i < cs.length := Nat.lt_of_succ_lt_succ hi
      obtain ⟨t', off, hoff, ht', hv, hw'⟩ := ih hrest hi'
      have hne : t ≠ .rawTail := hraw.resolve_left (List.ne_nil_of_length_pos (by omega))
      rw [List.length_drop] at hw'
      refine ⟨t', width t + off, ?_, ht', ?_, by omega⟩
      · simp [decodedValues, ht, fieldsSize, fieldSize_fieldValue, hne, hoff]
      · simp [decodedValues, ht, hv, List.drop_drop]

theorem fieldsSize_decodedValues_le {desc : List TagCode} {b : Bytes} (h : Decodable desc b) :
    fieldsSize desc (decodedValues desc b) ≤ b.length := by
  induction desc generalizing b with
  | nil => simp [fieldsSize]
  | cons c cs ih =>
    obtain ⟨t, ht, hw, hrest, hraw⟩ := decodable_cons h
    have := ih hrest
    simp only [decodedValues, ht, fieldsSize, fieldSize_fieldValue]
    rw [List.length_drop] at this
    split
    · obtain rfl := hraw.resolve_right (not_not_intro ‹_›)
      simp [fieldsSize]
    · omega

/-- A loaded `DECODE` after its first `i` micro-operations: their values stand in the first `i` slots, and `off` is
behind their bytes. -/
def decodeAt (s : State) (i : Nat) : State :=
  { s with
    fi := i
    off := fieldsSize (s.desc.take i) ((decodedValues s.desc s.buf).take i)
    v := (decodedValues s.desc s.buf).take i ++ s.v.drop i }

theorem decodeAt_zero (s : State) : decodeAt s 0 = { s with fi := 0, off := 0 } := by
  simp [decodeAt, fieldsSize]

/-- A slot written behind the slots already written extends them. -/
theorem set_behind {α : Type} {xs ys : List α} {i : Nat} {x : α} (hx : xs[i]? = some x) (hi : i < ys.length) :
    (xs.take i ++ ys.drop i).set i x = xs.take (i + 1) ++ ys.drop (i + 1) := by
  obtain ⟨hi', rfl⟩ := List.getElem?_eq_some_iff.1 hx
  have hlen : (xs.take i).length = i := List.length_take_of_le (Nat.le_of_lt hi')
  rw [List.set_append_right _ _ (Nat.le_of_eq hlen), hlen, List.drop_eq_getElem_cons hi, Nat.sub_self,
    List.set_cons_zero, List.take_succ_eq_append_getElem hi', List.append_assoc]
  rfl

section Decode

variable {s : State} (hmode : s.mode = .decode) (hrun : CodecRunning s)

include hmode hrun

theorem decodable_of_codecRunning : Decodable s.desc s.buf := by
  obtain ⟨htags, -, -, -, hdec⟩ := hrun
  rw [hmode] at hdec
  obtain ⟨hraw, hsize, hle, -⟩ := hdec
  exact ⟨htags, hraw, hsize ▸ hle⟩

/-- The micro-operation at field `i` takes the operation from `i` fields done to `i + 1` (R83). -/
theorem step_decodeAt (hbusy : s.busy = true) {i : Nat} (hi : i < s.desc.length) :
    step (decodeAt s i) = .next (decodeAt s (i + 1)) := by
  obtain ⟨t, off, hoff, ht, hx, hw⟩ := decodedValues_getElem? (decodable_of_codecRunning hmode hrun) hi
  obtain ⟨-, hl, -⟩ := hrun
  have hc : s.desc[i]? = some s.desc[i] := List.getElem?_eq_getElem hi
  have hsize : loadSize t (decodeAt s i) = fieldSize t (fieldValue t (s.buf.drop off)) := by
    simp only [loadSize, fieldSize_fieldValue, decodeAt, hoff, List.length_drop]
  rw [step_micro (s := decodeAt s i) hbusy hc ht, show (decodeAt s i).mode = .decode from hmode, exec_decode_iff]
  refine ⟨?_, by simpa only [decodeAt, ← hoff] using hw, ?_⟩
  · obtain ⟨hlt, -⟩ := List.getElem?_eq_some_iff.1 hx
    simp only [decodeAt, List.length_append, List.length_take, List.length_drop]
    omega
  · rw [hsize]
    simp only [afterLoad, decodeAt, ← hoff, set_behind hx (hl ▸ hi), fieldsSize_take_succ hc hx ht]

end Decode

theorem decodeAt_end {s : State} (hl : s.v.length = s.desc.length)
    (htags : ∀ c ∈ s.desc, (Tag.ofCode c).isSome = true) :
    decodeAt s s.desc.length =
      { s with fi := s.desc.length, off := fieldsSize s.desc (decodedValues s.desc s.buf),
               v := decodedValues s.desc s.buf } := by
  have hall : (decodedValues s.desc s.buf).take s.desc.length = decodedValues s.desc s.buf :=
    List.take_of_length_le (Nat.le_of_eq (decodedValues_length htags _))
  simp only [decodeAt, hall, List.take_length, List.drop_of_length_le (Nat.le_of_eq hl), List.append_nil]

theorem decodeResult_decoded {desc : List TagCode} {bytes : Bytes} {vals : List Value}
    (h : decodeResult desc bytes = .decoded vals) :
    (∃ size, decodeCheck desc bytes.length = .ok size) ∧ vals = decodedValues desc bytes := by
  unfold decodeResult at h
  split at h
  · cases h
  · rename_i size he
    cases h
    exact ⟨⟨size, he⟩, rfl⟩

/-- Settles O44: the operation starts, each micro-operation writes its field's value, and the end returns them. -/
theorem decodeIsOneTransaction : Obligations.DecodeIsOneTransaction := by
  intro s desc bytes rest vals hi hn hd hb hres
  obtain ⟨⟨size, he⟩, rfl⟩ := decodeResult_decoded hres
  let s₀ := (s.setInputs rest).beginOperation .decode desc (freshSlots s.allocs desc.length) size bytes
  have hrun : CodecRunning s₀ := codecRunning_begin_decode he
  have hdec : Decodable desc bytes := decodable_of_codecRunning (s := s₀) rfl hrun
  have hend : s₀.desc[s₀.desc.length]? = none := List.getElem?_eq_none (Nat.le_refl _)
  have hstart : step s = .next (decodeAt s₀ 0) := by
    rw [step_decode hi hn, decodeAt_zero]
    exact startDecode_loads (s := s.setInputs rest) hd hb he
  obtain ⟨hfinal, hbetween⟩ := steps_through hstart (fun _ => step_decodeAt rfl hrun rfl)
    (step_finish (s := decodeAt s₀ s₀.desc.length) rfl hend)
  rw [decodeAt_end (s := s₀) (freshSlots_length _ _) hdec.1] at hfinal
  refine ⟨⟨_, hfinal, rfl, rfl, rfl, rfl, rfl, fieldsSize_decodedValues_le hdec, ⟨rfl, rfl, rfl, rfl⟩, rfl, rfl⟩, ?_⟩
  intro k u hk1 hkn hu
  obtain ⟨i, -, rfl⟩ := hbetween k u hk1 hkn hu
  exact ⟨rfl, rfl, ⟨rfl, rfl, rfl, rfl⟩, rfl, rfl, rfl⟩

end Sys2Proof.Proofs
end

section
/-! PROOFS. The statements of the family 10_state.md: reset, what each instruction writes and reads, what a step runs,
and the invariant that every step keeps. -/

namespace Sys2Proof.Proofs

open Sys2Proof Sys2Proof.Machine Sys2Proof.Safety

/-! ## The instructions of the two units -/

theorem encode_microOp (m : Mode) (t : Tag) : encode (microOp m t) = .uop (uopKey m t.code) := by
  cases m <;> cases t <;> rfl

theorem decodeUop_of_encode {i : Instr} {k : BitVec 5} (h : encode i = .uop k) : decodeUop k = .ok i := by
  cases i <;> cases h <;> rfl

/-- The micro-operations are the instructions with a key (R59). -/
theorem isMicroOp_iff_encode {i : Instr} : IsMicroOp i ↔ ∃ k, encode i = .uop k := by
  constructor
  · rintro ⟨m, t, rfl⟩
    exact ⟨_, encode_microOp m t⟩
  · rintro ⟨k, hk⟩
    have h := decodeUop_of_encode hk
    unfold decodeUop at h
    split at h
    · cases h
    · exact ⟨_, _, (Except.ok.inj h).symm⟩

/-- The instructions of `PD` are the five requests and the five selectors. -/
theorem request_or_selector {i : Instr} (h : ¬ IsMicroOp i) :
    (∃ r, i = instrOf r) ∨ (∃ slot, exec i = dispatchTo slot) ∧ ∀ r, i ≠ instrOf r := by
  by_cases hr : ∃ r, i = instrOf r
  · exact .inl hr
  · refine .inr ⟨?_, fun r hi => hr ⟨r, hi⟩⟩
    cases i with
    | dispatchResponse => exact ⟨.response, rfl⟩
    | dispatchDebug => exact ⟨.debug, rfl⟩
    | dispatchStatus => exact ⟨.status, rfl⟩
    | dispatchData => exact ⟨.data, rfl⟩
    | dispatchFft => exact ⟨.fft, rfl⟩
    | recv m => exact absurd ⟨.recv m, rfl⟩ hr
    | send b => exact absurd ⟨.send b, rfl⟩ hr
    | subscribe slot x => exact absurd ⟨.subscribe slot x, rfl⟩ hr
    | connected => exact absurd ⟨.connected, rfl⟩ hr
    | disconnected => exact absurd ⟨.disconnected, rfl⟩ hr
    | _ => exact absurd (isMicroOp_iff_encode.2 ⟨_, rfl⟩) h

theorem not_isMicroOp_instrOf (r : Request) : ¬ IsMicroOp (instrOf r) := by
  rw [isMicroOp_iff_encode]
  rintro ⟨k, hk⟩
  cases r <;> cases hk

/-! ## What a micro-operation writes -/

/-- Settles O16: the field's bytes are spliced into `BUF`, and the splice laws say what reads as before. -/
theorem encodeFrame : Obligations.EncodeFrame := by
  intro tag s t x hx h
  obtain ⟨y, hy, hcls, -, hfit, rfl⟩ := (exec_encode_iff tag s t).1 h
  obtain rfl : x = y := Option.some.inj (hx.symm.trans hy)
  have hlen := fieldBytes_length tag x hcls
  rw [← hlen] at hfit ⊢
  exact ⟨fun a ha => splice_getElem?_outside hfit ha, splice_length hfit, rfl, rfl, rfl, rfl, rfl, rfl, rfl, rfl, rfl,
    ⟨rfl, rfl, rfl, rfl⟩, rfl, rfl, rfl⟩

/-- Where a `DEC` leaves `off`: behind the field's bytes, which lie in `BUF`. -/
theorem off_add_loadSize {tag : Tag} {s : State} (h : s.off + width tag ≤ s.buf.length) :
    s.off + loadSize tag s = (if tag = .rawTail then s.buf.length else s.off + width tag) ∧
      s.off + loadSize tag s ≤ s.buf.length := by
  unfold loadSize
  split <;> omega

/-- Settles O23: one slot is set, and `off` and `fi` advance. -/
theorem decodeFrame : Obligations.DecodeFrame := by
  intro tag s t h
  obtain ⟨-, hfit, rfl⟩ := (exec_decode_iff tag s t).1 h
  obtain ⟨hoff, hle⟩ := off_add_loadSize hfit
  exact ⟨rfl, List.length_set, fun j hj => List.getElem?_set_ne hj.symm, rfl, hoff, hle, rfl, rfl, rfl, rfl, rfl, rfl,
    ⟨rfl, rfl, rfl, rfl⟩, rfl, rfl, rfl⟩

/-- No micro-operation writes a register of `PD`, a port, the inputs or the capacities (R13). -/
theorem exec_microOp_sameDemux {m : Mode} {tag : Tag} {s t : State} (h : exec (microOp m tag) s = .next t) :
    SameDemux s t ∧ t.trace = s.trace ∧ t.inputs = s.inputs ∧ t.cap = s.cap := by
  cases m with
  | encode =>
    obtain ⟨x, -, -, -, -, rfl⟩ := (exec_encode_iff tag s t).1 h
    exact ⟨⟨rfl, rfl, rfl, rfl⟩, rfl, rfl, rfl⟩
  | decode =>
    obtain ⟨-, -, rfl⟩ := (exec_decode_iff tag s t).1 h
    exact ⟨⟨rfl, rfl, rfl, rfl⟩, rfl, rfl, rfl⟩

/-! ## What the requests and selectors write -/

/-- What a `RECV` of a message puts out, which rests on the subscriber table alone (R99 to R103). -/
def recvEvents (tab : SubTab) (m : Bytes) : List Event :=
  if m.length < 3 then [.diag (.shortMessage m.length)]
  else warningEvents (declaredLength m) (actualLength m) ++
    dispatchEvents (tab.row (slotOf (typeByte m))) (slotOf (typeByte m)) (typeByte m) (payloadOf m)

theorem execRecv_fits {s : State} {m : Bytes} (hw : Config.within s.cap.msgMax m.length = true) :
    execRecv m s = .next { s with msg := none, trace := s.trace ++ recvEvents s.subtab m } := by
  unfold recvEvents
  split
  · exact execRecv_short hw ‹_›
  · obtain ⟨t, l0, l1, p, rfl⟩ := exists_header (m := m) ‹_›
    rw [execRecv_header (by simpa using hw), List.append_assoc, declaredLength_cons, actualLength_cons, typeByte_cons,
      payloadOf_cons]

theorem execRecv_eq (m : Bytes) (s : State) :
    execRecv m s = if Config.within s.cap.msgMax m.length = true
      then .next { s with msg := none, trace := s.trace ++ recvEvents s.subtab m }
      else .refused .messageTooLong := by
  split
  · exact execRecv_fits ‹_›
  · exact execRecv_tooLong (Bool.not_eq_true _ ▸ ‹_›)

/-- What a `SEND` puts out, which rests on `CONN` alone (R105). -/
def sendEvents (conn : Bool) (b : Bytes) : List Event :=
  if conn then [.tout b, .res .ok] else [.res .notConnectedError]

theorem execSend_fits {s : State} {b : Bytes} (hw : Config.within s.cap.msgMax b.length = true) :
    execSend b s = .next { s with trace := s.trace ++ sendEvents s.conn b } := by
  unfold sendEvents
  split
  · exact execSend_connected hw ‹_›
  · exact execSend_notConnected hw (Bool.not_eq_true _ ▸ ‹_›)

theorem execSend_eq (b : Bytes) (s : State) :
    execSend b s = if Config.within s.cap.msgMax b.length = true
      then .next { s with trace := s.trace ++ sendEvents s.conn b }
      else .refused .messageTooLong := by
  split
  · exact execSend_fits ‹_›
  · exact execSend_tooLong (Bool.not_eq_true _ ▸ ‹_›)

theorem ite_refused_eq_next {p : Prop} [Decidable p] {o : Host.Outcome State Fault Refusal} {u : State} {r : Refusal}
    (h : (if p then o else .refused r) = .next u) : p ∧ o = .next u := by
  split at h
  · exact ⟨‹_›, h⟩
  · cases h

theorem ite_refused_eq_refused {p : Prop} [Decidable p] {t : State} {q r : Refusal}
    (h : (if p then .next t else .refused q : Host.Outcome State Fault Refusal) = .refused r) : ¬ p ∧ q = r := by
  split at h
  · cases h
  · exact ⟨‹_›, Host.Outcome.refused.inj h⟩

theorem dispatchTo_next {slot : Slot} {s t : State} (h : dispatchTo slot s = .next t) :
    ∃ ty p, t = afterDispatch s slot ty p := by
  obtain ⟨ty, l0, l1, p, -, hs⟩ | ⟨-, hs⟩ := dispatchTo_eq slot s
  · exact ⟨ty, p, by simpa using h.symm.trans hs⟩
  · cases hs.symm.trans h

/-- Settles O31: case by case over the five requests and the selectors. -/
theorem demuxFrame : Obligations.DemuxFrame := by
  intro i s t hi h
  have hcodec : SameCodec s s := ⟨rfl, rfl, rfl, rfl, rfl, rfl, rfl, rfl, rfl, rfl⟩
  have hgrow (new : List Event) : s.trace <+: s.trace ++ new := List.prefix_append _ _
  obtain ⟨r, rfl⟩ | ⟨⟨slot, hs⟩, hne⟩ := request_or_selector hi
  · cases r with
    | recv m =>
      obtain ⟨-, ⟨⟩⟩ := ite_refused_eq_next ((execRecv_eq m s).symm.trans h)
      exact ⟨hcodec, rfl, rfl, rfl, hgrow _, absurd rfl, absurd rfl,
        fun _ => ⟨rfl, fun _ _ _ => ⟨nofun, nofun, nofun, nofun⟩⟩⟩
    | send b =>
      obtain ⟨-, ⟨⟩⟩ := ite_refused_eq_next ((execSend_eq b s).symm.trans h)
      exact ⟨hcodec, rfl, rfl, rfl, hgrow _, absurd rfl, absurd rfl, absurd rfl⟩
    | subscribe slot x =>
      obtain ⟨-, rfl⟩ | ⟨-, -, rfl⟩ := execSubscribe_next h
      · exact ⟨hcodec, rfl, rfl, rfl, List.prefix_rfl, absurd rfl, absurd rfl, absurd rfl⟩
      · exact ⟨hcodec, rfl, rfl, rfl, List.prefix_rfl, absurd rfl, fun _ => ⟨slot, x, rfl, rfl⟩, absurd rfl⟩
    | connected =>
      cases h
      exact ⟨hcodec, rfl, rfl, rfl, hgrow _, fun _ => .inl rfl, absurd rfl, absurd rfl⟩
    | disconnected =>
      cases h
      exact ⟨hcodec, rfl, rfl, rfl, hgrow _, fun _ => .inr rfl, absurd rfl, absurd rfl⟩
  · rw [hs] at h
    obtain ⟨ty, p, rfl⟩ := dispatchTo_next h
    exact ⟨hcodec, rfl, rfl, rfl, hgrow _, absurd rfl, absurd rfl,
      fun _ => ⟨rfl, fun b target x =>
        ⟨hne (.send b), hne (.subscribe target x), hne .connected, hne .disconnected⟩⟩⟩

/-- Settles O51: the frames of the two units. -/
theorem unitsAreSeparate : Obligations.UnitsAreSeparate := by
  refine fun i s t h => ⟨?_, fun hi => (demuxFrame i s t hi h).1⟩
  rintro ⟨m, tag, rfl⟩
  obtain ⟨hd, ht, hi, -⟩ := exec_microOp_sameDemux h
  exact ⟨hd, ht, hi⟩

/-- All an instruction of `PD` can do to the subscriber table: nothing, or one new identifier behind a row (R106). -/
theorem exec_demux_subtab {i : Instr} {s t : State} (hi : ¬ IsMicroOp i) (h : exec i s = .next t) :
    t.subtab = s.subtab ∨ ∃ slot x, x ∉ s.subtab.row slot ∧
      Config.within s.cap.subMax ((s.subtab.row slot).length + 1) = true ∧
      t.subtab = s.subtab.setRow slot (s.subtab.row slot ++ [x]) := by
  obtain ⟨-, -, -, -, -, -, htab, -⟩ := demuxFrame i s t hi h
  by_cases heq : t.subtab = s.subtab
  · exact .inl heq
  · obtain ⟨slot, x, rfl, -⟩ := htab heq
    obtain ⟨-, rfl⟩ | ⟨hx, hw, rfl⟩ := execSubscribe_next h
    · exact .inl rfl
    · exact .inr ⟨slot, x, hx, hw, rfl⟩

/-- All an instruction of `PD` can do to `CONN` (R107, R109). -/
theorem exec_demux_conn {i : Instr} {s t : State} (hi : ¬ IsMicroOp i) (h : exec i s = .next t)
    (hc : t.conn ≠ s.conn) : i = .connected ∧ t.conn = true ∨ i = .disconnected ∧ t.conn = false := by
  obtain ⟨-, -, -, -, -, hconn, -, -⟩ := demuxFrame i s t hi h
  obtain rfl | rfl := hconn hc
  · cases h; exact .inl ⟨rfl, rfl⟩
  · cases h; exact .inr ⟨rfl, rfl⟩

/-! ## What each request reads -/

theorem execSubscribe_refused {s : State} {slot : Slot} {x : Config.SinkId} {r : Refusal}
    (h : execSubscribe slot x s = .refused r) :
    x ∉ s.subtab.row slot ∧ Config.within s.cap.subMax ((s.subtab.row slot).length + 1) = false ∧
      r = .rowFull slot := by
  unfold execSubscribe at h
  split at h
  · cases h
  · split at h
    · cases h
    · cases h; exact ⟨‹_›, Bool.not_eq_true _ ▸ ‹_›, rfl⟩

/-- Settles O32: each request is an equation in the register it reads and the capacities. -/
theorem requestsReadOnlyTheirState : Obligations.RequestsReadOnlyTheirState := by
  intro s u hcap
  refine ⟨fun m htab => ?_, fun b hconn => ?_, fun slot x htab => ⟨fun t h => ?_, fun r h => ?_⟩, ?_⟩
  · simp only [exec, execRecv_eq, hcap, htab]
    refine ⟨fun t h => ?_, fun r h => ?_⟩
    · obtain ⟨hw, ⟨⟩⟩ := ite_refused_eq_next h
      exact ⟨_, rfl, if_pos hw⟩
    · obtain ⟨hw, rfl⟩ := ite_refused_eq_refused h
      exact if_neg hw
  · simp only [exec, execSend_eq, hcap, hconn]
    refine ⟨fun t h => ?_, fun r h => ?_⟩
    · obtain ⟨hw, ⟨⟩⟩ := ite_refused_eq_next h
      exact ⟨_, rfl, if_pos hw⟩
    · obtain ⟨hw, rfl⟩ := ite_refused_eq_refused h
      exact if_neg hw
  · obtain ⟨hx, rfl⟩ | ⟨hx, hw, rfl⟩ := execSubscribe_next h
    · rw [← htab] at hx ⊢
      exact execSubscribe_known hx
    · simp only [State.setRow_subtab, ← htab, ← hcap] at hx hw ⊢
      exact execSubscribe_room hx hw
  · obtain ⟨hx, hw, rfl⟩ := execSubscribe_refused h
    rw [← htab] at hx hw
    exact execSubscribe_full hx (hcap ▸ hw)
  · rintro i (rfl | rfl) t h <;> cases h <;> exact ⟨_, rfl, rfl⟩

/-! ## Deliveries -/

theorem warningEvents_filter_delivery (declared actual : Nat) (x : Config.SinkId) :
    (warningEvents declared actual).filter (isDeliveryTo x) = [] := by
  unfold warningEvents
  split <;> rfl

/-- A dispatch delivers to a subscriber as often as the row names it. -/
theorem dispatchEvents_deliveries (subs : List Config.SinkId) (slot : Slot) (t : Byte) (p : Bytes)
    (x : Config.SinkId) :
    ((dispatchEvents subs slot t p).filter (isDeliveryTo x)).length = subs.count x := by
  unfold dispatchEvents
  split
  · rename_i h
    subst h
    rfl
  · rw [← List.countP_eq_length_filter, List.countP_map]
    rfl

theorem recvEvents_deliveries_le_one {s : State} (h : TableOk s) (m : Bytes) (x : Config.SinkId) :
    ((recvEvents s.subtab m).filter (isDeliveryTo x)).length ≤ 1 := by
  unfold recvEvents
  split
  · exact Nat.zero_le 1
  · rw [List.filter_append, warningEvents_filter_delivery, List.nil_append, dispatchEvents_deliveries]
    obtain ⟨hnodup, -⟩ := h (slotOf (typeByte m))
    rw [hnodup.count]
    split <;> omega

/-- Settles O33: the row of the message's slot names each subscriber at most once. -/
theorem deliveryAtMostOncePerRecv : Obligations.DeliveryAtMostOncePerRecv := by
  intro s t m x htable h
  obtain ⟨-, ⟨⟩⟩ := ite_refused_eq_next ((execRecv_eq m s).symm.trans h)
  exact ⟨_, rfl, recvEvents_deliveries_le_one htable m x⟩

/-! ## The value a DEC reads fits its field -/

theorem fieldValue_cls (t : Tag) (b : Bytes) : (fieldValue t b).cls = classOf t := by
  cases t <;> rfl

theorem canonical_int8_signExtend (b : BitVec 8) : canonical .int8 (.num (b.signExtend 32)) = true := by
  have hlo := BitVec.le_toInt b
  have hhi := BitVec.toInt_lt (x := b)
  simp only [canonical, intOf, range, Bool.and_eq_true, decide_eq_true_eq,
    BitVec.toInt_signExtend_of_le (v := 32) (x := b) (by decide)]
  omega

theorem canonical_int16_signExtend (b : BitVec 16) : canonical .int16 (.num (b.signExtend 32)) = true := by
  have hlo := BitVec.le_toInt b
  have hhi := BitVec.toInt_lt (x := b)
  simp only [canonical, intOf, range, Bool.and_eq_true, decide_eq_true_eq,
    BitVec.toInt_signExtend_of_le (v := 32) (x := b) (by decide)]
  omega

theorem canonical_uint8_zeroExtend (b : BitVec 8) : canonical .uint8 (.num (b.zeroExtend 32)) = true := by
  have := b.isLt
  simp only [canonical, intOf, range, Bool.and_eq_true, decide_eq_true_eq, BitVec.zeroExtend,
    BitVec.toNat_setWidth_of_le (w' := 32) (b := b) (by decide)]
  omega

theorem canonical_uint16_zeroExtend (b : BitVec 16) : canonical .uint16 (.num (b.zeroExtend 32)) = true := by
  have := b.isLt
  simp only [canonical, intOf, range, Bool.and_eq_true, decide_eq_true_eq, BitVec.zeroExtend,
    BitVec.toNat_setWidth_of_le (w' := 32) (b := b) (by decide)]
  omega

theorem canonical_fieldValue (t : Tag) (b : Bytes) : canonical t (fieldValue t b) = true := by
  cases t with
  | int8 => exact canonical_int8_signExtend _
  | uint8 => exact canonical_uint8_zeroExtend _
  | int16 => exact canonical_int16_signExtend _
  | uint16 => exact canonical_uint16_zeroExtend _
  | int32 => exact canonical_int32 _
  | uint32 => exact canonical_uint32 _
  | int64 => exact canonical_int64 _
  | uint64 => exact canonical_uint64 _
  | float32 => exact canonical_float32 _
  | rawTail => exact canonical_rawTail _

theorem fieldFits_fieldValue {c : TagCode} {t : Tag} (ht : Tag.ofCode c = some t) (b : Bytes) :
    fieldFits c (fieldValue t b) = true :=
  fieldFits_iff.2 ⟨t, ht, fieldValue_cls t b, canonical_fieldValue t b⟩

/-! ## A micro-operation keeps the registers of an operation as R16 says -/

theorem fieldsFit_set {desc : List TagCode} {v : List Value} {k : Nat} {c : TagCode} {x : Value}
    (h : FieldsFit desc v k) (hc : desc[k]? = some c) (hx : fieldFits c x = true) :
    FieldsFit desc (v.set k x) (k + 1) := by
  intro i d y hi hd hy
  by_cases hik : i = k
  · subst hik
    obtain ⟨hlt, -⟩ := List.getElem?_eq_some_iff.1 hy
    rw [List.getElem?_set_self (by simpa using hlt)] at hy
    cases hd.symm.trans hc
    cases hy
    exact hx
  · rw [List.getElem?_set_ne (Ne.symm hik)] at hy
    exact h i d y (by omega) hd hy

theorem loadSize_eq_fieldSize (tag : Tag) (s : State) :
    loadSize tag s = fieldSize tag (fieldValue tag (s.buf.drop s.off)) := by
  rw [loadSize, fieldSize_fieldValue, List.length_drop]

section Micro

variable {s t : State} {c : TagCode} {tag : Tag} (hrun : CodecRunning s) (hc : s.desc[s.fi]? = some c)
  (ht : Tag.ofCode c = some tag)

include hrun hc ht

theorem codecRunning_encode (hmode : s.mode = .encode) (h : exec (microOp .encode tag) s = .next t) :
    CodecRunning t := by
  obtain ⟨htags, hl, -, hoff, henc⟩ := hrun
  rw [hmode] at henc
  obtain ⟨hfit, hsize, hbuf⟩ := henc
  obtain ⟨x, hx, hcls, -, hle, rfl⟩ := (exec_encode_iff tag s t).1 h
  obtain ⟨hfi, -⟩ := List.getElem?_eq_some_iff.1 hc
  have hlen := fieldBytes_length tag x hcls
  refine ⟨htags, hl, hfi, ?_, ?_⟩
  · simp only [afterStore, fieldsSize_take_succ hc hx ht, hoff, hlen]
  · rw [show (afterStore s (fieldBytes tag x)).mode = .encode from hmode]
    exact ⟨hfit, hsize, (splice_length (hlen ▸ hle)).trans hbuf⟩

theorem codecRunning_decode (hmode : s.mode = .decode) (h : exec (microOp .decode tag) s = .next t) :
    CodecRunning t := by
  obtain ⟨htags, hl, -, hoff, hdec⟩ := hrun
  rw [hmode] at hdec
  obtain ⟨hraw, hsize, hle, hfit⟩ := hdec
  obtain ⟨hlt, -, rfl⟩ := (exec_decode_iff tag s t).1 h
  obtain ⟨hfi, -⟩ := List.getElem?_eq_some_iff.1 hc
  refine ⟨htags, List.length_set.trans hl, hfi, ?_, ?_⟩
  · have hx := List.getElem?_set_self (a := fieldValue tag (s.buf.drop s.off)) hlt
    simp only [afterLoad, fieldsSize_take_succ hc hx ht, List.take_set_of_le (Nat.le_refl s.fi), ← hoff,
      loadSize_eq_fieldSize]
  · rw [show (afterLoad s (loadSize tag s) (fieldValue tag (s.buf.drop s.off))).mode = .decode from hmode]
    exact ⟨hraw, hsize, hle, fieldsFit_set hfit hc (fieldFits_fieldValue ht _)⟩

theorem codecRunning_micro (h : exec (microOp s.mode tag) s = .next t) : CodecRunning t := by
  cases hmode : s.mode with
  | encode => exact codecRunning_encode hrun hc ht hmode (hmode ▸ h)
  | decode => exact codecRunning_decode hrun hc ht hmode (hmode ▸ h)

end Micro

/-! ## The table and the queue -/

theorem within_of_le {cap : Option Nat} {m n : Nat} (h : Config.within cap n = true) (hmn : m ≤ n) :
    Config.within cap m = true := by
  cases cap with
  | none => rfl
  | some k =>
    simp only [Config.within, decide_eq_true_eq] at h ⊢
    omega

theorem nodup_append_singleton {α : Type} {l : List α} {x : α} (h : l.Nodup) (hx : x ∉ l) : (l ++ [x]).Nodup := by
  refine List.nodup_append.2 ⟨h, List.pairwise_singleton _ _, fun y hy z hz hyz => hx ?_⟩
  rw [← List.mem_singleton.1 hz, ← hyz]
  exact hy

/-- A new identifier behind a row that has room keeps the table as R23 says. -/
theorem tableOk_of_append {s t : State} {slot : Slot} {x : Config.SinkId} (h : TableOk s) (hcap : t.cap = s.cap)
    (hx : x ∉ s.subtab.row slot) (hw : Config.within s.cap.subMax ((s.subtab.row slot).length + 1) = true)
    (ht : t.subtab = s.subtab.setRow slot (s.subtab.row slot ++ [x])) : TableOk t := by
  intro other
  rw [ht, hcap]
  by_cases ho : other = slot
  · subst ho
    rw [SubTab.row_setRow_same, List.length_append]
    exact ⟨nodup_append_singleton (h other).1 hx, hw⟩
  · rw [SubTab.row_setRow_other _ _ ho]
    exact h other

theorem tableOk_congr {s t : State} (h : TableOk s) (htab : t.subtab = s.subtab) (hcap : t.cap = s.cap) :
    TableOk t := by
  intro slot
  rw [htab, hcap]
  exact h slot

theorem exec_demux_tableOk {i : Instr} {s t : State} (hi : ¬ IsMicroOp i) (h : exec i s = .next t)
    (htable : TableOk s) : TableOk t := by
  obtain ⟨-, -, -, hcap, -⟩ := demuxFrame i s t hi h
  obtain htab | ⟨slot, x, hx, hw, htab⟩ := exec_demux_subtab hi h
  · exact tableOk_congr htable htab hcap
  · exact tableOk_of_append htable hcap hx hw htab

/-! ## The invariant -/

/-- A step of `SC` keeps the invariant when it leaves the operation as R16 says or ends it. -/
theorem inv_of_sameDemux {s t : State} (h : Inv s) (hd : SameDemux s t) (hcap : t.cap = s.cap)
    (hcodec : t.busy = true → CodecRunning t) : Inv t := by
  obtain ⟨-, htab, hmsg, hrq⟩ := hd
  exact {
    table := tableOk_congr h.table htab hcap
    queue := by rw [hcap, hrq]; exact h.queue
    noMessage := hmsg.trans h.noMessage
    codec := hcodec }

theorem inv_exec_demux {i : Instr} {s t : State} (h : Inv s) (hidle : s.busy = false) (hi : ¬ IsMicroOp i)
    (he : exec i s = .next t) : Inv t := by
  obtain ⟨⟨hbusy, -⟩, hrq, -, hcap, -, -, -, hmsg⟩ := demuxFrame i s t hi he
  refine ⟨exec_demux_tableOk hi he h.table, by rw [hcap, hrq]; exact h.queue, ?_, fun hb => ?_⟩
  · by_cases heq : t.msg = s.msg
    · exact heq.trans h.noMessage
    · exact (hmsg heq).1
  · rw [hbusy, hidle] at hb
    cases hb

/-- A change of the queue or of the remaining moves keeps the invariant while the queue is within its depth. -/
theorem inv_setRq {s : State} (h : Inv s) {q : List Request} (hq : Config.within s.cap.rqMax q.length = true)
    (rest : List Input) : Inv ((s.setInputs rest).setRq q) :=
  ⟨h.table, hq, h.noMessage, h.codec⟩

theorem inv_startEncode {s t : State} {desc : List TagCode} {vals : List Value} (h : Inv s)
    (he : startEncode desc vals s = .next t) : Inv t := by
  obtain ⟨e, -, rfl⟩ | ⟨size, hsize, hf, rfl⟩ := startEncode_next he
  · exact inv_of_sameDemux h ⟨rfl, rfl, rfl, rfl⟩ rfl nofun
  · exact inv_of_sameDemux h ⟨rfl, rfl, rfl, rfl⟩ rfl fun _ => codecRunning_begin_encode hsize hf

theorem inv_startDecode {s t : State} {desc : List TagCode} {bytes : Bytes} (h : Inv s)
    (he : startDecode desc bytes s = .next t) : Inv t := by
  obtain ⟨e, -, rfl⟩ | ⟨size, hsize, rfl⟩ := startDecode_next he
  · exact inv_of_sameDemux h ⟨rfl, rfl, rfl, rfl⟩ rfl nofun
  · exact inv_of_sameDemux h ⟨rfl, rfl, rfl, rfl⟩ rfl fun _ => codecRunning_begin_decode hsize

/-- Settles O46: reset has empty rows, an empty queue, no message and no operation. -/
theorem resetHasTheInvariant : Obligations.ResetHasTheInvariant where
  table slot := by
    rw [show State.reset.subtab.row slot = [] from SubTab.row_empty slot]
    exact ⟨List.nodup_nil, rfl⟩
  queue := rfl
  noMessage := rfl
  codec := nofun

/-- Settles O47: case by case over what can move next. -/
theorem stepKeepsTheInvariant : Obligations.StepKeepsTheInvariant := by
  intro s t hinv h
  have hrest (rest : List Input) : Inv (s.setInputs rest) := inv_setRq hinv hinv.queue rest
  cases stepCase s with
  | micro c tag hb hc ht hs =>
    rw [hs] at h
    obtain ⟨hd, -, -, hcap⟩ := exec_microOp_sameDemux h
    exact inv_of_sameDemux hinv hd hcap fun _ => codecRunning_micro (hinv.codec hb) hc ht h
  | unknownTag c _ _ _ hs =>
    cases hs.symm.trans h
    exact inv_of_sameDemux hinv ⟨rfl, rfl, rfl, rfl⟩ rfl nofun
  | finish _ _ hs =>
    cases hs.symm.trans h
    exact inv_of_sameDemux hinv ⟨rfl, rfl, rfl, rfl⟩ rfl nofun
  | emptyMessage _ _ hs => cases hs.symm.trans h
  | selector ty m _ hm _ => cases hinv.noMessage.symm.trans hm
  | wait _ _ _ hs => cases hs.symm.trans h; exact hinv
  | request r q rest hi _ hr hs =>
    rw [hs] at h
    have hq : Config.within s.cap.rqMax q.length = true := by
      refine within_of_le hinv.queue ?_
      rw [hr]
      exact Nat.le_succ _
    exact inv_exec_demux (inv_setRq hinv hq rest) hi.1 (not_isMicroOp_instrOf r) h
  | emptyTurn rest _ _ _ hs => cases hs.symm.trans h; exact hrest rest
  | arrive r rest _ x _ hs =>
    obtain ⟨hq, rfl⟩ := enqueue_next (hs.symm.trans h)
    exact inv_setRq hinv (by simpa using hq) rest
  | encode d v rest _ _ hs => exact inv_startEncode (hrest rest) (hs.symm.trans h)
  | decode d b rest _ _ hs => exact inv_startDecode (hrest rest) (hs.symm.trans h)

/-! ## Reset -/

/-- Settles O1: these are the values `State.reset` names. -/
theorem resetState : Obligations.ResetState :=
  ⟨rfl, SubTab.row_empty, rfl, rfl, rfl⟩

/-! ## What a step runs -/

theorem step_run {s u : State} {c : Code} {i : Instr} (hm : nextMove s = .run c u) (hd : decode c = .ok i) :
    step s = exec i u := by
  simp only [step, hm, hd]

theorem nextMove_micro {s : State} {c : TagCode} (hb : s.busy = true) (hc : s.desc[s.fi]? = some c) :
    nextMove s = .run (.uop (uopKey s.mode c)) s := by
  simp only [nextMove, hb, hc, if_true]

theorem nextMove_selector {s : State} {t : Byte} {m : Bytes} (hb : s.busy = false) (hm : s.msg = some (t :: m)) :
    nextMove s = .run (.ptype t) s := by
  simp only [nextMove, hb, hm, Bool.false_eq_true, if_false]

/-- Settles O40: each of the three fetches, then the decoder's instruction. -/
theorem stepRunsTheDecodedInstruction : Obligations.StepRunsTheDecodedInstruction := by
  refine ⟨fun s c i hb hc hd => step_run (nextMove_micro hb hc) hd,
    fun s t m i hb hm hd => step_run (nextMove_selector hb hm) hd, fun s r queue i hi hr hd => ?_⟩
  obtain rfl : instrOf r = i := Except.ok.inj ((decode_code r).symm.trans hd)
  exact ⟨fun hn => step_request hi hn hr, fun rest hn => step_turn hi hn hr⟩

theorem finishOperation_encode {s : State} (hm : s.mode = .encode) :
    finishOperation s =
      { s with busy := false, status := .ok, trace := s.trace ++ [.codec (.encoded s.buf)] } := by
  simp only [finishOperation, State.endOperation, State.emit, hm]

theorem finishOperation_decode {s : State} (hm : s.mode = .decode) :
    finishOperation s =
      { s with busy := false, status := .ok, trace := s.trace ++ [.codec (.decoded s.v)] } := by
  simp only [finishOperation, State.endOperation, State.emit, hm]

/-- Settles O41: an idle block with an empty queue waits, and past the last field an operation returns. -/
theorem stepWaitsOrFinishes : Obligations.StepWaitsOrFinishes := by
  refine ⟨fun s => step_wait, fun s rest => step_emptyTurn, fun s hb hfi => ?_⟩
  rw [step_finish hb (List.getElem?_eq_none (Nat.le_of_eq hfi.symm))]
  exact ⟨fun hm => congrArg _ (finishOperation_encode hm), fun hm => congrArg _ (finishOperation_decode hm)⟩

/-- Settles O42: an arrival of either kind is put behind the queue, which has room. -/
theorem arrivalsEnterTheQueueInOrder : Obligations.ArrivalsEnterTheQueueInOrder := by
  intro s rest hi hq
  have hfits (r : Request) : enqueue (s.setInputs rest) r = .next ((s.setInputs rest).setRq (s.rq ++ [r])) :=
    enqueue_fits hq
  exact ⟨fun b hn => (step_tin hi hn).trans (hfits _), fun hn => (step_tin hi hn).trans (hfits _),
    fun hn => (step_tin hi hn).trans (hfits _), fun b hn => (step_req hi hn).trans (hfits _),
    fun slot x hn => (step_req hi hn).trans (hfits _)⟩

/-! ## What no step takes back -/

theorem row_prefix_setRow (tab : SubTab) (slot other : Slot) (x : Config.SinkId) :
    tab.row other <+: (tab.setRow slot (tab.row slot ++ [x])).row other := by
  by_cases ho : other = slot
  · subst ho
    rw [SubTab.row_setRow_same]
    exact List.prefix_append _ _
  · exact (SubTab.row_setRow_other tab _ ho).symm ▸ List.prefix_rfl

theorem exec_demux_row_prefix {i : Instr} {s t : State} (hi : ¬ IsMicroOp i) (h : exec i s = .next t) (slot : Slot) :
    s.subtab.row slot <+: t.subtab.row slot := by
  obtain htab | ⟨target, x, -, -, htab⟩ := exec_demux_subtab hi h
  · exact htab ▸ List.prefix_rfl
  · exact htab ▸ row_prefix_setRow s.subtab target slot x

theorem startEncode_sameDemux {s t : State} {desc : List TagCode} {vals : List Value}
    (h : startEncode desc vals s = .next t) : SameDemux s t ∧ s.trace <+: t.trace ∧ t.cap = s.cap := by
  obtain ⟨e, -, rfl⟩ | ⟨size, -, -, rfl⟩ := startEncode_next h
  · exact ⟨⟨rfl, rfl, rfl, rfl⟩, List.prefix_append _ _, rfl⟩
  · exact ⟨⟨rfl, rfl, rfl, rfl⟩, List.prefix_rfl, rfl⟩

theorem startDecode_sameDemux {s t : State} {desc : List TagCode} {bytes : Bytes}
    (h : startDecode desc bytes s = .next t) : SameDemux s t ∧ s.trace <+: t.trace ∧ t.cap = s.cap := by
  obtain ⟨e, -, rfl⟩ | ⟨size, -, rfl⟩ := startDecode_next h
  · exact ⟨⟨rfl, rfl, rfl, rfl⟩, List.prefix_append _ _, rfl⟩
  · exact ⟨⟨rfl, rfl, rfl, rfl⟩, List.prefix_rfl, rfl⟩

/-- All a step can be, for `PD`: a request taken out of `RQ` and run, or a step that leaves the table and `CONN`. -/
theorem step_request_or_quiet {s t : State} (h : step s = .next t) :
    (∃ r q rest, s.rq = r :: q ∧ exec (instrOf r) ((s.setInputs rest).setRq q) = .next t) ∨
    t.subtab = s.subtab ∧ t.conn = s.conn ∧ s.trace <+: t.trace ∧ t.cap = s.cap := by
  cases stepCase s with
  | request r q rest _ _ hr hs => exact .inl ⟨r, q, rest, hr, hs.symm.trans h⟩
  | micro c tag _ _ _ hs =>
    obtain ⟨⟨hconn, htab, -, -⟩, htrace, -, hcap⟩ := exec_microOp_sameDemux (hs.symm.trans h)
    exact .inr ⟨htab, hconn, htrace ▸ List.prefix_rfl, hcap⟩
  | unknownTag c _ _ _ hs =>
    cases hs.symm.trans h
    exact .inr ⟨rfl, rfl, List.prefix_append _ _, rfl⟩
  | finish _ _ hs =>
    cases hs.symm.trans h
    exact .inr ⟨rfl, rfl, List.prefix_append _ _, rfl⟩
  | emptyMessage _ _ hs => cases hs.symm.trans h
  | selector ty m _ _ hs =>
    obtain ⟨ty', p, rfl⟩ := dispatchTo_next (hs.symm.trans h)
    exact .inr ⟨rfl, rfl, List.prefix_append _ _, rfl⟩
  | wait _ _ _ hs =>
    cases hs.symm.trans h
    exact .inr ⟨rfl, rfl, List.prefix_rfl, rfl⟩
  | emptyTurn rest _ _ _ hs =>
    cases hs.symm.trans h
    exact .inr ⟨rfl, rfl, List.prefix_rfl, rfl⟩
  | arrive r rest _ x _ hs =>
    obtain ⟨-, rfl⟩ := enqueue_next (hs.symm.trans h)
    exact .inr ⟨rfl, rfl, List.prefix_rfl, rfl⟩
  | encode d v rest _ _ hs =>
    obtain ⟨⟨hconn, htab, -, -⟩, htrace, hcap⟩ := startEncode_sameDemux (hs.symm.trans h)
    exact .inr ⟨htab, hconn, htrace, hcap⟩
  | decode d b rest _ _ hs =>
    obtain ⟨⟨hconn, htab, -, -⟩, htrace, hcap⟩ := startDecode_sameDemux (hs.symm.trans h)
    exact .inr ⟨htab, hconn, htrace, hcap⟩

/-- Settles O50: a request extends a row and sets `CONN` as its rule says; any other step leaves both. -/
theorem subscriptionsAndTracesOnlyGrow : Obligations.SubscriptionsAndTracesOnlyGrow := by
  intro s t h
  obtain ⟨r, q, rest, hr, he⟩ | ⟨htab, hconn, htrace, hcap⟩ := step_request_or_quiet h
  · have hpd := not_isMicroOp_instrOf r
    obtain ⟨-, -, -, hcap, htrace, -⟩ := demuxFrame _ _ t hpd he
    have hrows := exec_demux_row_prefix hpd he
    refine ⟨hrows, htrace, hcap, fun hc => ?_⟩
    rw [hr, List.head?_cons]
    obtain ⟨hi, ht⟩ | ⟨hi, ht⟩ := exec_demux_conn hpd he hc <;> cases r <;> cases hi
    · exact .inl ⟨rfl, ht⟩
    · exact .inr ⟨rfl, ht⟩
  · exact ⟨fun slot => htab ▸ List.prefix_rfl, htrace, hcap, absurd hconn⟩

/-! ## What the start of an operation depends on -/

theorem sameCodec_beginOperation {s u : State} (ha : u.allocs = s.allocs) (m : Mode) (desc : List TagCode)
    (v : List Value) (size : Nat) (buf : Bytes) :
    SameCodec (s.beginOperation m desc v size buf) (u.beginOperation m desc v size buf) :=
  ⟨rfl, rfl, rfl, rfl, rfl, rfl, rfl, rfl, congrArg Config.freshStatus ha, congrArg (· + 1) ha⟩

section Start

variable {s t u : State} (hcap : u.cap = s.cap) (ha : u.allocs = s.allocs) (hb : t.busy = true)

include hcap ha hb

/-- Where an `ENCODE` starts in one state, the capacities let it start in the other, with the same registers. -/
theorem startEncode_sameCodec {desc : List TagCode} {vals : List Value} (h : startEncode desc vals s = .next t) :
    ∃ w, startEncode desc vals u = .next w ∧ SameCodec t w := by
  obtain ⟨e, -, rfl⟩ | ⟨size, he, hf, rfl⟩ := startEncode_next h
  · cases hb
  · simp only [startEncode, he, hf, ← hcap] at h
    obtain ⟨hd, h⟩ := ite_refused_eq_next h
    obtain ⟨hr, h⟩ := ite_refused_eq_next h
    obtain ⟨hs, -⟩ := ite_refused_eq_next h
    exact ⟨_, startEncode_loads hd hr he hf hs, ha ▸ sameCodec_beginOperation ha ..⟩

/-- The same of a `DECODE`. -/
theorem startDecode_sameCodec {desc : List TagCode} {bytes : Bytes} (h : startDecode desc bytes s = .next t) :
    ∃ w, startDecode desc bytes u = .next w ∧ SameCodec t w := by
  obtain ⟨e, -, rfl⟩ | ⟨size, he, rfl⟩ := startDecode_next h
  · cases hb
  · simp only [startDecode, he, ← hcap] at h
    obtain ⟨hd, h⟩ := ite_refused_eq_next h
    obtain ⟨hlen, -⟩ := ite_refused_eq_next h
    exact ⟨_, startDecode_loads hd hlen he, ha ▸ sameCodec_beginOperation ha ..⟩

end Start

/-- Settles O53: the start of an operation reads its operands, the capacities and the counter of free values alone. -/
theorem operationsForgetWhatRanBefore : Obligations.OperationsForgetWhatRanBefore := by
  rintro s u t _ rest hs hu hcap ha hns hnu (⟨desc, vals, rfl⟩ | ⟨desc, bytes, rfl⟩) h hb
  · rw [step_encode hs hns] at h
    rw [step_encode hu hnu]
    exact startEncode_sameCodec (s := s.setInputs rest) (u := u.setInputs rest) hcap ha hb h
  · rw [step_decode hs hns] at h
    rw [step_decode hu hnu]
    exact startDecode_sameCodec (s := s.setInputs rest) (u := u.setInputs rest) hcap ha hb h

end Sys2Proof.Proofs
end

section
/-! PROOFS. The statements of the family 20_memory.md: every access to `BUF`, to a slot and to a held message lies
inside it. -/

namespace Sys2Proof.Proofs

open Sys2Proof Sys2Proof.Machine Sys2Proof.Safety

/-! ## The held message -/

/-- Settles O30: each selector is the dispatch to its slot, which reads the header first. -/
theorem selectorsNeedAHeader : Obligations.SelectorsNeedAHeader := by
  intro s i hi hm
  simp only [List.mem_cons, List.not_mem_nil, or_false] at hi
  obtain rfl | rfl | rfl | rfl | rfl := hi <;> exact dispatchTo_noHeader _ hm

/-! ## The field at `fi` lies in `BUF` -/

theorem fieldsSize_take_le {desc : List TagCode} {vals : List Value} (hl : vals.length = desc.length) (i : Nat) :
    fieldsSize (desc.take i) (vals.take i) ≤ fieldsSize desc vals := by
  have h := fieldsSize_append (es := desc.drop i) (ys := vals.drop i)
    (show (desc.take i).length = (vals.take i).length by simp [hl])
  rw [List.take_append_drop, List.take_append_drop] at h
  omega

/-- Only `rawTail` takes another number of bytes than its width. -/
theorem fieldSize_eq_width {t : Tag} (ht : t ≠ .rawTail) (x : Value) : fieldSize t x = width t := by
  cases t with
  | rawTail => exact absurd rfl ht
  | _ => rfl

/-- In a `DECODE` the field behind the first `i` ends within the sum of the fixed widths: no field before the last is
`rawTail`, so the values bound to the slots do not move `off` (R84, R85). -/
theorem fieldsSize_take_add_width_le {desc : List TagCode} {vals : List Value} {i : Nat} {c : TagCode} {t : Tag}
    (hl : vals.length = desc.length) (hraw : rawOnlyLast desc = true) (hc : desc[i]? = some c)
    (ht : Tag.ofCode c = some t) :
    fieldsSize (desc.take i) (vals.take i) + width t ≤ fixedSize desc := by
  induction desc generalizing vals i with
  | nil => simp at hc
  | cons d ds ih =>
    cases i with
    | zero =>
      obtain rfl : d = c := by simpa using hc
      simp [fieldsSize, fixedSize, ht]
    | succ i =>
      cases vals with
      | nil => simp at hl
      | cons x xs =>
        have hc' : ds[i]? = some c := by simpa using hc
        have hne : ds ≠ [] := by rintro rfl; simp at hc'
        simp only [rawOnlyLast, Bool.and_eq_true, Bool.or_eq_true, bne_iff_ne, ne_eq, List.isEmpty_iff, hne,
          or_false] at hraw
        obtain ⟨hd, hrest⟩ := hraw
        have hle := ih (Nat.succ.inj hl) hrest hc'
        simp only [List.take_succ_cons, fieldsSize, fixedSize]
        cases htag : Tag.ofCode d with
        | none => simpa using hle
        | some tag =>
          simp only [fieldSize_eq_width (fun h => hd (htag.trans (congrArg some h)))]
          omega

/-! ## A micro-operation of an operation in progress answers a next state -/

section Micro

variable {s : State} {c : TagCode} {tag : Tag} (hrun : CodecRunning s) (hc : s.desc[s.fi]? = some c)
  (ht : Tag.ofCode c = some tag)

include hrun hc ht

/-- The slot at `fi` holds a value of the tag's class, and its bytes fit in `BUF`, which is as long as all fields. -/
theorem exists_next_exec_encode (hmode : s.mode = .encode) : ∃ t, exec (microOp .encode tag) s = .next t := by
  obtain ⟨-, hl, -, hoff, henc⟩ := hrun
  rw [hmode] at henc
  obtain ⟨hfit, hsize, hbuf⟩ := henc
  obtain ⟨hi, -⟩ := List.getElem?_eq_some_iff.1 hc
  have hx : s.v[s.fi]? = some s.v[s.fi] := List.getElem?_eq_getElem (by omega)
  obtain ⟨tag', ht', hcls, hk⟩ := fieldFits_iff.1 (hfit _ _ _ hi hc hx)
  obtain rfl : tag = tag' := Option.some.inj (ht.symm.trans ht')
  have hle := fieldsSize_take_le hl (s.fi + 1)
  rw [fieldsSize_take_succ hc hx ht, ← hoff, ← hsize, ← hbuf] at hle
  exact ⟨_, (exec_encode_iff tag s _).2 ⟨_, hx, hcls, hk, hle, rfl⟩⟩

/-- There is a slot at `fi`, and the input holds the field's bytes from `off` on. -/
theorem exists_next_exec_decode (hmode : s.mode = .decode) : ∃ t, exec (microOp .decode tag) s = .next t := by
  obtain ⟨-, hl, -, hoff, hdec⟩ := hrun
  rw [hmode] at hdec
  obtain ⟨hraw, hsize, hbuf, -⟩ := hdec
  obtain ⟨hi, -⟩ := List.getElem?_eq_some_iff.1 hc
  have hle := fieldsSize_take_add_width_le hl hraw hc ht
  rw [← hoff, ← hsize] at hle
  exact ⟨_, (exec_decode_iff tag s _).2 ⟨hl ▸ hi, Nat.le_trans hle hbuf, rfl⟩⟩

theorem exists_next_exec_microOp : ∃ t, exec (microOp s.mode tag) s = .next t := by
  cases hmode : s.mode with
  | encode => exact exists_next_exec_encode hrun hc ht hmode
  | decode => exact exists_next_exec_decode hrun hc ht hmode

end Micro

/-! ## What never faults, in any state -/

theorem ite_refused_ne_fault {p : Prop} [Decidable p] {o : Host.Outcome State Fault Refusal} {r : Refusal} {f : Fault}
    (h : o ≠ .fault f) : (if p then o else .refused r) ≠ .fault f := by
  split
  · exact h
  · exact nofun

theorem enqueue_ne_fault (s : State) (r : Request) (f : Fault) : enqueue s r ≠ .fault f :=
  ite_refused_ne_fault nofun

theorem startEncode_ne_fault (desc : List TagCode) (vals : List Value) (s : State) (f : Fault) :
    startEncode desc vals s ≠ .fault f := by
  refine ite_refused_ne_fault (ite_refused_ne_fault ?_)
  split
  · exact nofun
  · split
    · exact nofun
    · exact ite_refused_ne_fault nofun

theorem startDecode_ne_fault (desc : List TagCode) (bytes : Bytes) (s : State) (f : Fault) :
    startDecode desc bytes s ≠ .fault f := by
  refine ite_refused_ne_fault (ite_refused_ne_fault ?_)
  split <;> exact nofun

theorem execSubscribe_ne_fault (slot : Slot) (x : Config.SinkId) (s : State) (f : Fault) :
    execSubscribe slot x s ≠ .fault f := by
  unfold execSubscribe
  split
  · exact nofun
  · exact ite_refused_ne_fault nofun

/-- `RECV` dispatches only a message with a header (R99, R100). -/
theorem execRecv_ne_fault (m : Bytes) (s : State) (f : Fault) : execRecv m s ≠ .fault f := by
  rw [execRecv_eq]
  exact ite_refused_ne_fault nofun

theorem execSend_ne_fault (b : Bytes) (s : State) (f : Fault) : execSend b s ≠ .fault f := by
  rw [execSend_eq]
  exact ite_refused_ne_fault nofun

theorem exec_request_ne_fault (r : Request) (s : State) (f : Fault) : exec (instrOf r) s ≠ .fault f := by
  cases r with
  | recv m => exact execRecv_ne_fault m s f
  | send b => exact execSend_ne_fault b s f
  | subscribe slot x => exact execSubscribe_ne_fault slot x s f
  | connected => exact nofun
  | disconnected => exact nofun

/-- Settles O48: case by case over what can move next; the invariant rules out a held message, and a micro-operation
of an operation in progress finds its slot and its bytes. -/
theorem stepNeverFaults : Obligations.StepNeverFaults := by
  intro s f hinv
  cases stepCase s with
  | micro c tag hb hc ht hs =>
    obtain ⟨t, he⟩ := exists_next_exec_microOp (hinv.codec hb) hc ht
    rw [hs, he]; exact nofun
  | unknownTag c _ _ _ hs => rw [hs]; exact nofun
  | finish _ _ hs => rw [hs]; exact nofun
  | emptyMessage _ hm _ => cases hinv.noMessage.symm.trans hm
  | selector ty m _ hm _ => cases hinv.noMessage.symm.trans hm
  | wait _ _ _ hs => rw [hs]; exact nofun
  | request r q rest _ _ _ hs => rw [hs]; exact exec_request_ne_fault r _ f
  | emptyTurn rest _ _ _ hs => rw [hs]; exact nofun
  | arrive r rest _ x _ hs => rw [hs]; exact enqueue_ne_fault _ r f
  | encode d v rest _ _ hs => rw [hs]; exact startEncode_ne_fault d v _ f
  | decode d b rest _ _ hs => rw [hs]; exact startDecode_ne_fault d b _ f

end Sys2Proof.Proofs
end

section
/-! PROOFS. The statements of the family 30_encoding.md: the decoder inverts the encoder, the integers that lanes stand
for and their bytes, each fixed field's micro-operation, and the selectors with the header they read. -/

namespace Sys2Proof.Proofs

open Sys2Proof Sys2Proof.Machine Sys2Proof.Safety

/-! ## The decoder and the encoder -/

theorem decode_encode_of_key {i : Instr} {k : BitVec 5} (h : encode i = .uop k) : decode (encode i) = .ok i := by
  rw [h]
  exact decodeUop_of_encode h

/-- Settles O5: the requests decode as their queued codes do, the type bytes by the rows of R57, and every other
instruction has a key. -/
theorem decodeOfEncode : Obligations.DecodeOfEncode := by
  intro i
  cases i with
  | recv m => exact decode_code (.recv m)
  | send b => exact decode_code (.send b)
  | subscribe slot x => exact decode_code (.subscribe slot x)
  | connected => exact decode_code .connected
  | disconnected => exact decode_code .disconnected
  | dispatchResponse | dispatchDebug | dispatchStatus | dispatchData | dispatchFft => rfl
  | _ => exact decode_encode_of_key rfl

theorem uopKey_toNat (m : Mode) (c : TagCode) : (uopKey m c).toNat = 16 * m.bit.toNat + c.toNat := by
  rw [uopKey, BitVec.toNat_append, ← Nat.shiftLeft_add_eq_or_of_lt c.isLt, Nat.shiftLeft_eq, Nat.mul_comm]

theorem ofCode_eq_none_iff (c : TagCode) : Tag.ofCode c = none ↔ 10 ≤ c.toNat := by
  revert c
  decide

theorem decode_uopKey_unknownTag (m : Mode) {c : TagCode} (h : 10 ≤ c.toNat) :
    decode (.uop (uopKey m c)) = .error (.unknownTag c) := by
  simp only [decode, decodeUop_uopKey, (ofCode_eq_none_iff c).2 h]

/-- Settles O2: each key of the table is its instruction's encoding, and a key is `MODE` before the tag code. -/
theorem microOpKeysDecode : Obligations.MicroOpKeysDecode :=
  ⟨decodeOfEncode .encInt8, decodeOfEncode .encUint8, decodeOfEncode .encInt16, decodeOfEncode .encUint16,
    decodeOfEncode .encInt32, decodeOfEncode .encUint32, decodeOfEncode .encInt64, decodeOfEncode .encUint64,
    decodeOfEncode .encFloat32, decodeOfEncode .encRawTail, decodeOfEncode .decInt8, decodeOfEncode .decUint8,
    decodeOfEncode .decInt16, decodeOfEncode .decUint16, decodeOfEncode .decInt32, decodeOfEncode .decUint32,
    decodeOfEncode .decInt64, decodeOfEncode .decUint64, decodeOfEncode .decFloat32, decodeOfEncode .decRawTail,
    fun c => ⟨(uopKey_toNat .encode c).trans (Nat.zero_add _), uopKey_toNat .decode c⟩,
    fun m _ => decode_uopKey_unknownTag m, fun _ _ => nextMove_micro⟩

theorem decodeReq_reserved {c : BitVec 3} (h : 5 ≤ c.toNat) (ops : ReqOperands) :
    decodeReq c ops = .error (.reservedRequest c) := by
  unfold decodeReq
  split
  case h_6 => exact if_pos h
  all_goals omega

/-- Settles O3: the code of a queued request decodes to its instruction, and no row has a code above 4. -/
theorem requestCodesDecode : Obligations.RequestCodesDecode :=
  ⟨fun m => decode_code (.recv m), fun b => decode_code (.send b), fun slot x => decode_code (.subscribe slot x),
    decode_code .connected, decode_code .disconnected, fun _ ops h => decodeReq_reserved h ops⟩

theorem slotOf_eq_unknown {t : Byte} (h0 : t ≠ 0x00) (h1 : t ≠ 0x01) (h2 : t ≠ 0x02) (h4 : t ≠ 0x04)
    (h8 : t ≠ 0x08) : slotOf t = .unknown := by
  unfold slotOf
  split
  case h_6 => rfl
  all_goals bv_omega

theorem decodeType_unknown {t : Byte} (h : slotOf t = .unknown) : decodeType t = .error (.unknownType t) := by
  simp only [decodeType, h]

/-- Settles O4: the five codes are the encodings of the five rows, and `slot_of` matches the whole byte. -/
theorem typeBytesSelectSlots : Obligations.TypeBytesSelectSlots := by
  refine ⟨⟨rfl, rfl, rfl, rfl, rfl⟩, fun t h0 h1 h2 h4 h8 => ?_, ⟨rfl, rfl, rfl, rfl, rfl, rfl⟩,
    decodeOfEncode .dispatchResponse, decodeOfEncode .dispatchDebug, decodeOfEncode .dispatchStatus,
    decodeOfEncode .dispatchData, decodeOfEncode .dispatchFft⟩
  have h := slotOf_eq_unknown h0 h1 h2 h4 h8
  exact ⟨h, decodeType_unknown h⟩

/-! ## The bit forms of canonical lanes -/

theorem extractLsb'_high_eq_zero_iff {n : Nat} (w : BitVec n) {k : Nat} (hk : k ≤ n) :
    w.extractLsb' k (n - k) = 0 ↔ w.toNat < 2 ^ k := by
  have hlt : w.toNat / 2 ^ k < 2 ^ (n - k) := by
    rw [Nat.div_lt_iff_lt_mul (Nat.two_pow_pos k), ← Nat.pow_add, Nat.sub_add_cancel hk]
    exact w.isLt
  rw [← BitVec.toNat_inj, BitVec.extractLsb'_toNat, Nat.shiftRight_eq_div_pow, Nat.mod_eq_of_lt hlt]
  exact Nat.div_eq_zero_iff_lt (Nat.two_pow_pos k)

/-- A word is the sign extension of its low `k` bits exactly when its integer fits in `k` bits. -/
theorem eq_signExtend_extractLsb'_iff {n k : Nat} (w : BitVec n) (hk : 0 < k) (hkn : k ≤ n) :
    w = (w.extractLsb' 0 k).signExtend n ↔ -2 ^ (k - 1) ≤ w.toInt ∧ w.toInt < 2 ^ (k - 1) := by
  have hlow : ((w.extractLsb' 0 k).signExtend n).toInt = w.toInt.bmod (2 ^ k) := by
    rw [BitVec.toInt_signExtend_of_le hkn, ← BitVec.setWidth_eq_extractLsb' hkn, BitVec.toInt_setWidth,
      BitVec.toInt_eq_toNat_bmod w, Int.bmod_bmod_of_dvd (Nat.pow_dvd_pow 2 hkn)]
  rw [← BitVec.toInt_inj, hlow, ← BitVec.toInt_ofInt]
  constructor
  · intro h
    rw [h]
    exact ⟨BitVec.le_toInt _, BitVec.toInt_lt⟩
  · rintro ⟨hlo, hhi⟩
    exact (BitVec.toInt_ofInt_eq_self hk hlo hhi).symm

theorem canonical_iff {t : Tag} {x : Value} {i lo hi : Int} (hx : intOf t x = some i) (hr : range t = some (lo, hi)) :
    canonical t x = true ↔ lo ≤ i ∧ i ≤ hi := by
  simp only [canonical, hx, hr, Bool.and_eq_true, decide_eq_true_eq]

theorem canonical_int8_iff (w : BitVec 32) :
    canonical .int8 (.num w) = true ↔ w = (w.extractLsb' 0 8).signExtend 32 := by
  rw [canonical_iff rfl rfl, eq_signExtend_extractLsb'_iff w (by decide) (by decide)]
  omega

theorem canonical_int16_iff (w : BitVec 32) :
    canonical .int16 (.num w) = true ↔ w = (w.extractLsb' 0 16).signExtend 32 := by
  rw [canonical_iff rfl rfl, eq_signExtend_extractLsb'_iff w (by decide) (by decide)]
  omega

theorem canonical_uint8_iff (w : BitVec 32) : canonical .uint8 (.num w) = true ↔ w.extractLsb' 8 24 = 0 := by
  rw [canonical_iff rfl rfl, extractLsb'_high_eq_zero_iff w (k := 8) (by decide)]
  omega

theorem canonical_uint16_iff (w : BitVec 32) : canonical .uint16 (.num w) = true ↔ w.extractLsb' 16 16 = 0 := by
  rw [canonical_iff rfl rfl, extractLsb'_high_eq_zero_iff w (k := 16) (by decide)]
  omega

/-- Settles O7: a `DEC` leaves the field's value in its slot, which fits the tag. -/
theorem canonicalLanes : Obligations.CanonicalLanes := by
  refine ⟨fun w => ⟨canonical_int8_iff w, canonical_uint8_iff w, canonical_int16_iff w, canonical_uint16_iff w,
    canonical_int32 w, canonical_uint32 w, canonical_float32 _⟩, fun q => ⟨canonical_int64 q, canonical_uint64 q⟩,
    fun t s u x h hx => ?_⟩
  obtain ⟨hfi, -, rfl⟩ := (exec_decode_iff t s u).1 h
  obtain rfl : fieldValue t (s.buf.drop s.off) = x :=
    Option.some.inj ((List.getElem?_set_self hfi).symm.trans hx)
  exact ⟨fieldValue_cls t _, canonical_fieldValue t _⟩

/-! ## The bytes an ENC writes -/

theorem ne_rawTail_of_range {t : Tag} (h : (range t).isSome = true) : t ≠ .rawTail := by
  rintro rfl
  cases h

theorem toInt_emod_two_pow {n k : Nat} (w : BitVec n) (hk : k ≤ n) : w.toInt % 2 ^ k = (w.toNat : Int) % 2 ^ k := by
  have hdvd : (2 : Int) ^ k ∣ ((2 ^ n : Nat) : Int) :=
    Int.natCast_pow 2 k ▸ Int.natCast_dvd_natCast.2 (Nat.pow_dvd_pow 2 hk)
  rw [BitVec.toInt_eq_toNat_bmod, ← Int.emod_emod_of_dvd _ hdvd, Int.bmod_emod, Int.emod_emod_of_dvd _ hdvd]

theorem leNat_leBytes_emod (W v : Nat) : (leNat (leBytes W v) : Int) = (v : Int) % 2 ^ (8 * W) := by
  rw [leNat_leBytes, Int.natCast_emod, Int.natCast_pow, Int.pow_mul]
  rfl

theorem leNat_leBytes_toInt_emod {n W : Nat} (w : BitVec n) (hW : 8 * W ≤ n) :
    (leNat (leBytes W w.toNat) : Int) = w.toInt % 2 ^ (8 * W) :=
  (leNat_leBytes_emod W _).trans (toInt_emod_two_pow w hW).symm

/-- The bytes of an integer field read back as the integer modulo `2^(8W)` (R51, R69). -/
theorem leNat_fieldBytes {i : Int} :
    ∀ {t : Tag} {x : Value}, intOf t x = some i → (leNat (fieldBytes t x) : Int) = i % 2 ^ (8 * width t)
  | .int8, .num w, rfl => leNat_leBytes_toInt_emod w (by decide)
  | .int16, .num w, rfl => leNat_leBytes_toInt_emod w (by decide)
  | .int32, .num w, rfl => leNat_leBytes_toInt_emod w (by decide)
  | .int64, .big q, rfl => leNat_leBytes_toInt_emod q (by decide)
  | .uint8, .num w, rfl => leNat_leBytes_emod _ w.toNat
  | .uint16, .num w, rfl => leNat_leBytes_emod _ w.toNat
  | .uint32, .num w, rfl => leNat_leBytes_emod _ w.toNat
  | .uint64, .big q, rfl => leNat_leBytes_emod _ q.toNat

theorem range_bounds {t : Tag} {lo hi : Int} (h : range t = some (lo, hi)) :
    -2 ^ (8 * width t) ≤ lo ∧ hi < 2 ^ (8 * width t) := by
  cases t <;> cases h <;> decide

/-- A canonical integer lies within `2^(8W)` of 0 on either side. -/
theorem canonical_bounds {t : Tag} {x : Value} {i : Int} (hr : (range t).isSome = true) (hi : intOf t x = some i)
    (hc : canonical t x = true) : -2 ^ (8 * width t) ≤ i ∧ i < 2 ^ (8 * width t) := by
  obtain ⟨⟨lo, hi'⟩, hr⟩ := Option.isSome_iff_exists.1 hr
  obtain ⟨hlo, hhi⟩ := range_bounds hr
  obtain ⟨hge, hle⟩ := (canonical_iff hi hr).1 hc
  exact ⟨Int.le_trans hlo hge, Int.lt_of_le_of_lt hle hhi⟩

theorem memRead_splice {b w : Bytes} {off : Nat} (h : off + w.length ≤ b.length) :
    memRead (b.take off ++ w ++ b.drop (off + w.length)) off w.length = some (leNat w) :=
  (memRead_eq_some_iff _ _ _ _).2 ⟨(splice_length h).symm ▸ h, congrArg leNat (splice_drop_take h)⟩

/-- Settles O8: the bytes read back as the integer modulo `2^(8W)`, and the integer is within `2^(8W)` of 0. -/
theorem encodedPatternIsTwosComplement : Obligations.EncodedPatternIsTwosComplement := by
  intro t s u x i hr hx hi h
  obtain ⟨y, hy, hcls, hk, hfit, rfl⟩ := (exec_encode_iff t s u).1 h
  obtain rfl : x = y := Option.some.inj (hx.symm.trans hy)
  have hlen : (fieldBytes t x).length = width t :=
    (fieldBytes_length t x hcls).trans (fieldSize_eq_width (ne_rawTail_of_range hr) x)
  rw [← fieldBytes_length t x hcls] at hfit
  rw [← hlen]
  refine ⟨rfl, _, memRead_splice hfit, ?_⟩
  rw [hlen, leNat_fieldBytes hi]
  obtain ⟨hlo, hhi⟩ := canonical_bounds hr hi hk
  split
  · exact Int.emod_eq_of_lt ‹_› hhi
  · rw [← Int.add_emod_right]
    exact Int.emod_eq_of_lt (by omega) (by omega)

/-- Settles O13: a `float32` lane is always canonical, and its four bytes are the pattern's. -/
theorem encodeFloat32Field : Obligations.EncodeFloat32Field := by
  refine ⟨decodeOfEncode .encFloat32, fun s w hx hfit => ?_⟩
  have hbytes : fieldBytes .float32 (.num w) =
      [w.extractLsb' 0 8, w.extractLsb' 8 8, w.extractLsb' 16 8, w.extractLsb' 24 8] := leBytes_four w
  rw [← hbytes]
  exact (exec_encode_iff .float32 s _).2 ⟨_, hx, rfl, canonical_float32 _, hfit, rfl⟩

/-! ## The integer a field's bytes stand for -/

/-- A signed field's integer is the two's-complement reading of its bits (R86, G1). -/
theorem integerOf_signed {t : Tag} (ht : signed t = true) (b : BitVec (8 * width t)) :
    integerOf t b.toNat = b.toInt := by
  simp [integerOf, ht, BitVec.toInt_eq_msb_cond, BitVec.msb_eq_decide]

theorem intOf_int8_signExtend (b : BitVec 8) :
    intOf .int8 (.num (b.signExtend 32)) = some (integerOf .int8 b.toNat) :=
  congrArg some ((BitVec.toInt_signExtend_of_le (by decide)).trans (integerOf_signed (t := .int8) rfl b).symm)

theorem intOf_int16_signExtend (b : BitVec 16) :
    intOf .int16 (.num (b.signExtend 32)) = some (integerOf .int16 b.toNat) :=
  congrArg some ((BitVec.toInt_signExtend_of_le (by decide)).trans (integerOf_signed (t := .int16) rfl b).symm)

theorem intOf_int32 (w : BitVec 32) : intOf .int32 (.num w) = some (integerOf .int32 w.toNat) :=
  congrArg some (integerOf_signed (t := .int32) rfl w).symm

theorem intOf_int64 (q : BitVec 64) : intOf .int64 (.big q) = some (integerOf .int64 q.toNat) :=
  congrArg some (integerOf_signed (t := .int64) rfl q).symm

theorem intOf_uint8_zeroExtend (b : BitVec 8) : intOf .uint8 (.num (b.zeroExtend 32)) = some (b.toNat : Int) :=
  congrArg (fun n : Nat => some (n : Int)) (BitVec.toNat_setWidth_of_le (by decide))

theorem intOf_uint16_zeroExtend (b : BitVec 16) : intOf .uint16 (.num (b.zeroExtend 32)) = some (b.toNat : Int) :=
  congrArg (fun n : Nat => some (n : Int)) (BitVec.toNat_setWidth_of_le (by decide))

theorem leNat_take_lt (b : Bytes) (n : Nat) : leNat (b.take n) < 256 ^ n :=
  Nat.lt_of_lt_of_le (leNat_lt _) (Nat.pow_le_pow_right (by decide) (List.length_take_le n b))

/-- The value a `DEC` of an integer tag reads stands for the integer of its bytes (R86). -/
theorem intOf_fieldValue {t : Tag} (ht : (range t).isSome = true) (b : Bytes) :
    intOf t (fieldValue t b) = some (integerOf t (leNat (b.take (width t)))) := by
  have hread {n k : Nat} (h : 256 ^ k = 2 ^ n) : some (integerOf t (BitVec.ofNat n (leNat (b.take k))).toNat) =
      some (integerOf t (leNat (b.take k))) := by
    rw [BitVec.toNat_ofNat, Nat.mod_eq_of_lt (h ▸ leNat_take_lt b k)]
  cases t with
  | int8 => exact (intOf_int8_signExtend _).trans (hread rfl)
  | uint8 => exact (intOf_uint8_zeroExtend _).trans (hread rfl)
  | int16 => exact (intOf_int16_signExtend _).trans (hread rfl)
  | uint16 => exact (intOf_uint16_zeroExtend _).trans (hread rfl)
  | int32 => exact (intOf_int32 _).trans (hread rfl)
  | uint32 => exact hread rfl
  | int64 => exact (intOf_int64 _).trans (hread rfl)
  | uint64 => exact hread rfl
  | float32 => cases ht
  | rawTail => cases ht

/-! ## The value a DEC reads -/

theorem exec_decode_fixed {t : Tag} {s : State} (ht : t ≠ .rawTail) (hfit : s.off + width t ≤ s.buf.length)
    (hfi : s.fi < s.v.length) :
    exec (microOp .decode t) s = .next (afterLoad s (width t) (fieldValue t (s.buf.drop s.off))) :=
  (exec_decode_iff t s _).2 ⟨hfi, hfit, by rw [loadSize, if_neg ht]⟩

/-- Settles O9: the slot takes the field's value, which stands for the integer of the bytes read. -/
theorem decodedIntegerIsTwosComplement : Obligations.DecodedIntegerIsTwosComplement := by
  intro t s r hr hread hfi
  obtain ⟨hfit, rfl⟩ := (memRead_eq_some_iff _ _ _ _).1 hread
  exact ⟨_, _, exec_decode_fixed (ne_rawTail_of_range hr) hfit hfi, rfl, intOf_fieldValue hr _⟩

theorem width_pos {t : Tag} (ht : t ≠ .rawTail) : 0 < width t := by
  cases t with
  | rawTail => exact absurd rfl ht
  | _ => decide

theorem exec_decode_of_drop {t : Tag} {s : State} {b : Bytes} {x : Value} (ht : t ≠ .rawTail)
    (hb : s.buf.drop s.off = b) (hfit : width t ≤ b.length) (hfi : s.fi < s.v.length) (hx : fieldValue t b = x) :
    exec (microOp .decode t) s = .next (afterLoad s (width t) x) := by
  subst hb hx
  rw [List.length_drop] at hfit
  have := width_pos ht
  exact exec_decode_fixed ht (by omega) hfi

/-- A byte below a number's bits is the number's low byte (R35). -/
theorem leNat_cons_eq_append {n : Nat} {bs : Bytes} {w : BitVec n} (h : leNat bs = w.toNat) (b : Byte) :
    leNat (b :: bs) = (w ++ b).toNat := by
  rw [leNat, h, BitVec.toNat_append, ← Nat.shiftLeft_add_eq_or_of_lt b.isLt, Nat.shiftLeft_eq]
  omega

theorem leNat_one (b0 : Byte) : leNat [b0] = b0.toNat := rfl

theorem leNat_two (b0 b1 : Byte) : leNat [b0, b1] = (b1 ++ b0).toNat :=
  leNat_cons_eq_append (leNat_one b1) b0

theorem leNat_four (b0 b1 b2 b3 : Byte) : leNat [b0, b1, b2, b3] = (b3 ++ b2 ++ b1 ++ b0).toNat :=
  leNat_cons_eq_append (leNat_cons_eq_append (leNat_two b2 b3) b1) b0

theorem ofNat_leNat {n : Nat} {bs : Bytes} {w : BitVec n} (h : leNat bs = w.toNat) : BitVec.ofNat n (leNat bs) = w := by
  rw [h, BitVec.ofNat_toNat, BitVec.setWidth_eq]

theorem fieldValue_int8 (b0 : Byte) (rest : Bytes) :
    fieldValue .int8 (b0 :: rest) = .num (b0.signExtend 32) :=
  congrArg (fun b : BitVec 8 => Value.num (b.signExtend 32)) (ofNat_leNat (leNat_one b0))

theorem fieldValue_uint8 (b0 : Byte) (rest : Bytes) :
    fieldValue .uint8 (b0 :: rest) = .num (b0.zeroExtend 32) :=
  congrArg (fun b : BitVec 8 => Value.num (b.zeroExtend 32)) (ofNat_leNat (leNat_one b0))

theorem fieldValue_int16 (b0 b1 : Byte) (rest : Bytes) :
    fieldValue .int16 (b0 :: b1 :: rest) = .num ((b1 ++ b0).signExtend 32) :=
  congrArg (fun b : BitVec 16 => Value.num (b.signExtend 32)) (ofNat_leNat (leNat_two b0 b1))

theorem fieldValue_uint16 (b0 b1 : Byte) (rest : Bytes) :
    fieldValue .uint16 (b0 :: b1 :: rest) = .num ((b1 ++ b0).zeroExtend 32) :=
  congrArg (fun b : BitVec 16 => Value.num (b.zeroExtend 32)) (ofNat_leNat (leNat_two b0 b1))

/-- Settles O17: the byte at `off` is the number read. -/
theorem decodeOneByteFields : Obligations.DecodeOneByteFields := by
  refine ⟨decodeOfEncode .decInt8, decodeOfEncode .decUint8,
    fun b => ⟨intOf_int8_signExtend b, intOf_uint8_zeroExtend b⟩, fun s b0 rest hb hfi => ?_⟩
  exact ⟨exec_decode_of_drop (t := .int8) nofun hb (Nat.le_add_left _ _) hfi (fieldValue_int8 ..),
    exec_decode_of_drop (t := .uint8) nofun hb (Nat.le_add_left _ _) hfi (fieldValue_uint8 ..)⟩

/-- Settles O18: the two bytes at `off`, low byte first, are the number read. -/
theorem decodeTwoByteFields : Obligations.DecodeTwoByteFields := by
  refine ⟨decodeOfEncode .decInt16, decodeOfEncode .decUint16,
    fun b => ⟨intOf_int16_signExtend b, intOf_uint16_zeroExtend b⟩, fun s b0 b1 rest hb hfi => ?_⟩
  exact ⟨exec_decode_of_drop (t := .int16) nofun hb (Nat.le_add_left _ _) hfi (fieldValue_int16 ..),
    exec_decode_of_drop (t := .uint16) nofun hb (Nat.le_add_left _ _) hfi (fieldValue_uint16 ..)⟩

/-- Settles O19: the four bytes at `off`, low byte first, are the lane. -/
theorem decodeFourByteFields : Obligations.DecodeFourByteFields := by
  refine ⟨decodeOfEncode .decInt32, decodeOfEncode .decUint32, fun w => ⟨intOf_int32 w, rfl⟩,
    fun s b0 b1 b2 b3 rest hb hfi => ?_⟩
  have hread := ofNat_leNat (leNat_four b0 b1 b2 b3)
  exact ⟨exec_decode_of_drop (t := .int32) nofun hb (Nat.le_add_left _ _) hfi (congrArg Value.num hread),
    exec_decode_of_drop (t := .uint32) nofun hb (Nat.le_add_left _ _) hfi (congrArg Value.num hread)⟩

/-- Settles O20: the four bytes at `off`, low byte first, are the pattern. -/
theorem decodeFloat32Field : Obligations.DecodeFloat32Field := by
  refine ⟨decodeOfEncode .decFloat32, fun s b0 b1 b2 b3 rest hb hfi => ?_⟩
  have hread := ofNat_leNat (leNat_four b0 b1 b2 b3)
  exact exec_decode_of_drop (t := .float32) nofun hb (Nat.le_add_left _ _) hfi (congrArg Value.num hread)

/-! ## The selectors and the header -/

/-- Settles O29: each selector is the dispatch of the held message to its slot, and an unknown type goes to
`UNKNOWN`. -/
theorem selectorsDispatch : Obligations.SelectorsDispatch := by
  intro s t l0 l1 payload hm
  refine ⟨dispatchTo_header .response hm, dispatchTo_header .debug hm, dispatchTo_header .status hm,
    dispatchTo_header .data hm, dispatchTo_header .fft hm, fun hb ht => ?_⟩
  rw [step_selector hb hm, ht]
  exact dispatchTo_header .unknown hm

theorem declaredLength_lt (m : Bytes) : declaredLength m < 65536 := leNat_take_lt (m.drop 1) 2

/-- The descriptor of the header is of fixed width 3 (R42, R63). -/
theorem decodeCheck_envHdr (len : Nat) :
    decodeCheck envHdr len = if len < 3 then .error (.bufferTooSmallError 3 len) else .ok 3 := rfl

theorem decodedValues_envHdr (m : Bytes) :
    decodedValues envHdr m =
      [.num ((typeByte m).zeroExtend 32), .num (BitVec.ofNat 32 (declaredLength m))] := by
  have hlen : fieldValue .uint16 (m.drop 1) = .num (BitVec.ofNat 32 (declaredLength m)) :=
    congrArg Value.num (BitVec.setWidth_ofNat_of_le_of_lt (by decide) (declaredLength_lt m))
  rw [← hlen]
  rfl

/-- Settles O34: the two fields of the header are the two reads of R100. -/
theorem headerReadIsADecode : Obligations.HeaderReadIsADecode := by
  refine fun m => ⟨fun h => ⟨?_, declaredLength_lt m⟩, fun h => ?_⟩
  · simp only [decodeResult, decodeCheck_envHdr, if_neg (Nat.not_lt.2 h), decodedValues_envHdr]
  · simp only [decodeResult, decodeCheck_envHdr, if_pos h]

end Sys2Proof.Proofs
end

section
/-! PROOFS. The statements of the family 40_codec_encode.md: the bytes each `ENC` writes and the lanes it refuses, the
fault the check phase of `ENCODE` reports, and what a failed operation leaves. -/

namespace Sys2Proof.Proofs

open Sys2Proof Sys2Proof.Machine Sys2Proof.Safety

/-! ## The check phase of ENCODE -/

/-- With the counts equal and the fields before field `k` passing, the fault at field `k` is the one reported (R118). -/
theorem encodeCheck_fault {desc : List TagCode} {vals : List Value} {k : Nat} {c : TagCode} {x : Value}
    (hp : PassBefore desc vals k) (hc : desc[k]? = some c) (hx : vals[k]? = some x) :
    (Tag.ofCode c = none → encodeCheck desc vals = .error (.formatError (.unknownTag k c))) ∧
    (∀ t, Tag.ofCode c = some t → x.cls ≠ classOf t →
      encodeCheck desc vals = .error (.typeMismatchError k t x.cls)) := by
  obtain ⟨hl, hpass⟩ := hp
  have hscan := encodeScan_fault 0 desc vals 0 k c x hc hx hpass
  rw [Nat.zero_add] at hscan
  rwa [encodeCheck, if_pos hl]

/-- A value of another class in a field of tag `t` is a `TypeMismatchError` at that field (R68). -/
theorem encodeCheck_mismatch {desc : List TagCode} {vals : List Value} {k : Nat} {t : Tag} {x : Value}
    (hp : PassBefore desc vals k) (hc : desc[k]? = some t.code) (hx : vals[k]? = some x) (hcls : x.cls ≠ classOf t) :
    encodeCheck desc vals = .error (.typeMismatchError k t x.cls) :=
  (encodeCheck_fault hp hc hx).2 t (Tag.ofCode_code t) hcls

/-- Settles O35: the count is tested first, then the scan reports the first fault or counts the sizes. -/
theorem encodeReportsTheFirstFault : Obligations.EncodeReportsTheFirstFault := by
  intro desc vals
  refine ⟨fun hl => if_neg hl, fun hl k c x hc hx hpass => encodeCheck_fault ⟨hl, hpass⟩ hc hx, fun hl hpass => ?_⟩
  rw [encodeCheck, if_pos hl, encodeScan_ok_iff 0 desc vals 0 _ hl]
  exact ⟨hpass, (Nat.zero_add _).symm⟩

/-! ## The bytes an ENC writes, and the lanes it refuses -/

/-- An `ENC` on a value that fits its field, with room at `off`, stores the field's bytes (R67). -/
theorem exec_encode_stores {t : Tag} {s : State} {x : Value} {bs : Bytes} (hx : s.v[s.fi]? = some x)
    (hcls : x.cls = classOf t) (hk : canonical t x = true) (hbytes : fieldBytes t x = bs)
    (hfit : s.off + bs.length ≤ s.buf.length) : exec (microOp .encode t) s = .next (afterStore s bs) := by
  rw [exec_encode_of_slot hx hcls hk, hbytes, storeField_eq, if_pos hfit]

theorem storeNum_refused {t : Tag} {n : Nat} {s : State} {w : BitVec 32} (hx : s.v[s.fi]? = some (.num w))
    (hk : canonical t (.num w) = false) : storeNum t n s = .refused (.valueOutOfRange s.fi) := by
  simp [storeNum, hx, hk]

theorem exec_encode_num {t : Tag} (ht : classOf t = .num) (s : State) :
    exec (microOp .encode t) s = storeNum t (width t) s := by
  cases t with
  | int64 | uint64 | rawTail => cases ht
  | _ => rfl

section NumLane

variable {t : Tag} {s : State} {w : BitVec 32} {i lo hi : Int} (hx : s.v[s.fi]? = some (.num w))
  (ht : classOf t = .num) (hint : intOf t (.num w) = some i) (hr : range t = some (lo, hi))

include hx ht hint hr

/-- A lane whose integer lies in the tag's range is stored (R69). -/
theorem exec_encode_inRange {bs : Bytes} (hbytes : leBytes (width t) w.toNat = bs) (hin : lo ≤ i ∧ i ≤ hi)
    (hfit : s.off + bs.length ≤ s.buf.length) : exec (microOp .encode t) s = .next (afterStore s bs) :=
  exec_encode_stores hx ht.symm ((canonical_iff hint hr).2 hin) hbytes hfit

/-- Any other lane is refused (R70). -/
theorem exec_encode_outOfRange (hout : ¬ (lo ≤ i ∧ i ≤ hi)) :
    exec (microOp .encode t) s = .refused (.valueOutOfRange s.fi) := by
  rw [exec_encode_num ht]
  exact storeNum_refused hx (Bool.eq_false_iff.2 (mt (canonical_iff hint hr).1 hout))

end NumLane

/-- Settles O10: a lane in the tag's range is stored as its low byte, any other is refused. -/
theorem encodeOneByteFields : Obligations.EncodeOneByteFields := by
  refine ⟨decodeOfEncode .encInt8, decodeOfEncode .encUint8, fun s w hx => ⟨?_, ?_, fun hw => ?_, fun hw => ?_⟩⟩
  · exact exec_encode_inRange (t := .int8) hx rfl rfl rfl (leBytes_one w)
  · exact exec_encode_outOfRange (t := .int8) hx rfl rfl rfl
  · exact exec_encode_inRange (t := .uint8) hx rfl rfl rfl (leBytes_one w) (by omega)
  · exact exec_encode_outOfRange (t := .uint8) hx rfl rfl rfl (by omega)

/-- Settles O11: a lane in the tag's range is stored as its two low bytes, any other is refused. -/
theorem encodeTwoByteFields : Obligations.EncodeTwoByteFields := by
  refine ⟨decodeOfEncode .encInt16, decodeOfEncode .encUint16, fun s w hx => ⟨?_, ?_, fun hw => ?_, fun hw => ?_⟩⟩
  · exact exec_encode_inRange (t := .int16) hx rfl rfl rfl (leBytes_two w)
  · exact exec_encode_outOfRange (t := .int16) hx rfl rfl rfl
  · exact exec_encode_inRange (t := .uint16) hx rfl rfl rfl (leBytes_two w) (by omega)
  · exact exec_encode_outOfRange (t := .uint16) hx rfl rfl rfl (by omega)

/-- Settles O12: every lane is canonical for both tags, and its four bytes are stored. -/
theorem encodeFourByteFields : Obligations.EncodeFourByteFields := by
  refine ⟨decodeOfEncode .encInt32, decodeOfEncode .encUint32, fun s w hx hfit => ⟨?_, ?_⟩⟩
  · exact exec_encode_stores (t := .int32) hx rfl (canonical_int32 w) (leBytes_four w) hfit
  · exact exec_encode_stores (t := .uint32) hx rfl (canonical_uint32 w) (leBytes_four w) hfit

/-- Settles O14: every lane is canonical for both tags, and its eight bytes are stored; a `NUM` is of another class. -/
theorem encodeEightByteFields : Obligations.EncodeEightByteFields := by
  refine ⟨decodeOfEncode .encInt64, decodeOfEncode .encUint64, fun desc vals k w hp hx => ⟨fun hc => ?_, fun hc => ?_⟩,
    fun s q hx hfit => ⟨?_, ?_⟩⟩
  · exact encodeCheck_mismatch hp hc hx nofun
  · exact encodeCheck_mismatch hp hc hx nofun
  · exact exec_encode_stores (t := .int64) hx rfl (canonical_int64 q) (leBytes_eight q) hfit
  · exact exec_encode_stores (t := .uint64) hx rfl (canonical_uint64 q) (leBytes_eight q) hfit

theorem eq_rawTail_of_classOf {t : Tag} (h : classOf t = .bytes) : t = .rawTail := by
  cases t with
  | rawTail => rfl
  | _ => cases h

theorem afterStore_nil (s : State) : afterStore s [] = { s with fi := s.fi + 1 } := by
  simp [afterStore]

/-- Settles O15: `rawTail` is the only tag of class `BYTES`, and its bytes are the value's own. -/
theorem encodeRawField : Obligations.EncodeRawField := by
  refine ⟨decodeOfEncode .encRawTail, fun desc vals k hp => ⟨fun x hc hx hcls => ?_, fun t b hc hx ht => ?_⟩,
    fun s b hx hfit => ?_⟩
  · exact encodeCheck_mismatch hp hc hx hcls
  · exact encodeCheck_mismatch hp hc hx fun hcls => ht (eq_rawTail_of_classOf hcls.symm)
  · have hstore : exec .encRawTail s = .next (afterStore s b) :=
      exec_encode_stores (t := .rawTail) hx rfl (canonical_rawTail _) rfl hfit
    refine ⟨hstore, ?_⟩
    rintro rfl
    rw [hstore, afterStore_nil]

/-! ## What a failed operation leaves -/

/-- With no operation in progress, raising an error writes `STATUS` and puts the error out, and nothing else (R119). -/
theorem raise_of_notBusy {s : State} (h : s.busy = false) (e : CodecError) :
    s.raise e = { s with status := .error e, trace := s.trace ++ [.codec (.failed e)] } := by
  simp only [State.raise, State.endOperation, State.emit, h]

/-- Settles O37: the start of a codec operation raises its error and does no more, and so does a `SEND`. -/
theorem errorsArePrecise : Obligations.ErrorsArePrecise := by
  refine ⟨fun s desc vals rest e hi hn hd hr he => ?_, fun s desc bytes rest e hi hn hd hb he => ?_,
    fun s b => execSend_notConnected⟩
  · rw [step_encode hi hn, startEncode_failed (s := s.setInputs rest) hd hr he]
    exact congrArg Host.Outcome.next (raise_of_notBusy (s := s.setInputs rest) hi.1 e)
  · rw [step_decode hi hn, startDecode_failed (s := s.setInputs rest) hd hb he]
    exact congrArg Host.Outcome.next (raise_of_notBusy (s := s.setInputs rest) hi.1 e)

end Sys2Proof.Proofs
end

section
/-! PROOFS. The statements of the family 41_codec_decode.md: the values of the eight-byte and raw fields, the fault the
check phase of `DECODE` reports, and the round trip of the codec. -/

namespace Sys2Proof.Proofs

open Sys2Proof Sys2Proof.Machine Sys2Proof.Safety

/-! ## The value a DEC of an eight-byte or a raw field reads -/

theorem leNat_eight (b0 b1 b2 b3 b4 b5 b6 b7 : Byte) :
    leNat [b0, b1, b2, b3, b4, b5, b6, b7] = (b7 ++ b6 ++ b5 ++ b4 ++ b3 ++ b2 ++ b1 ++ b0).toNat :=
  leNat_cons_eq_append (leNat_cons_eq_append (leNat_cons_eq_append (leNat_cons_eq_append
    (leNat_four b4 b5 b6 b7) b3) b2) b1) b0

/-- Settles O21: the eight bytes at `off`, low byte first, are the lane. -/
theorem decodeEightByteFields : Obligations.DecodeEightByteFields := by
  refine ⟨decodeOfEncode .decInt64, decodeOfEncode .decUint64, fun q => ⟨intOf_int64 q, rfl⟩,
    fun s b0 b1 b2 b3 b4 b5 b6 b7 rest hb hfi => ?_⟩
  have hread := ofNat_leNat (leNat_eight b0 b1 b2 b3 b4 b5 b6 b7)
  exact ⟨exec_decode_of_drop (t := .int64) nofun hb (Nat.le_add_left _ _) hfi (congrArg Value.big hread),
    exec_decode_of_drop (t := .uint64) nofun hb (Nat.le_add_left _ _) hfi (congrArg Value.big hread)⟩

/-- Settles O22: what lies behind `off` is the value, and its length is what `off` moves by. -/
theorem decodeRawField : Obligations.DecodeRawField := by
  refine ⟨decodeOfEncode .decRawTail, fun s pre tail hbuf hoff hfi => ?_⟩
  have hlen : s.buf.length = s.off + tail.length := by rw [hbuf, hoff, List.length_append]
  have hdrop : s.buf.drop s.off = tail := by rw [hbuf, hoff, List.drop_left]
  have hsize : loadSize .rawTail s = tail.length := by rw [loadSize, if_pos rfl, hlen, Nat.add_sub_cancel_left]
  refine (exec_decode_iff .rawTail s _).2 ⟨hfi, hlen ▸ Nat.le_add_right _ _, ?_⟩
  rw [hsize, hdrop]
  rfl

/-! ## The check phase of DECODE -/

theorem decodeScan_cons_fixed {d : TagCode} {t : Tag} (hd : Tag.ofCode d = some t) (ht : t ≠ .rawTail) (i : Nat)
    (ds : List TagCode) (size : Nat) : decodeScan i (d :: ds) size = decodeScan (i + 1) ds (size + width t) := by
  simp [decodeScan, hd, ht]

/-- What the scan of `DECODE` reports at the first offending element: the unknown tag, or the `rawTail` that is not
last. -/
theorem decodeScan_fault {desc : List TagCode} {k : Nat} {c : TagCode} (i size : Nat) (hc : desc[k]? = some c)
    (hp : ∀ j d, j < k → desc[j]? = some d → ∃ t, Tag.ofCode d = some t ∧ t ≠ .rawTail) :
    (Tag.ofCode c = none → decodeScan i desc size = .error (.formatError (.unknownTag (i + k) c))) ∧
    (Tag.ofCode c = some .rawTail → k + 1 ≠ desc.length →
      decodeScan i desc size = .error (.formatError (.rawTailNotLast (i + k)))) := by
  induction k generalizing i desc size with
  | zero =>
    match desc, hc with
    | _ :: cs, rfl =>
      refine ⟨fun h => by simp [decodeScan, h], fun h hlast => ?_⟩
      have hcs : cs ≠ [] := by rintro rfl; exact hlast rfl
      simp [decodeScan, h, hcs]
  | succ k ih =>
    match desc, hc with
    | d :: ds, hc =>
      obtain ⟨t, hd, ht⟩ := hp 0 d (Nat.succ_pos k) rfl
      obtain ⟨hunknown, hraw⟩ := ih (i + 1) (size + width t) hc
        fun j d' hj hd' => hp (j + 1) d' (Nat.succ_lt_succ hj) hd'
      rw [decodeScan_cons_fixed hd ht, show i + (k + 1) = i + 1 + k by omega]
      exact ⟨hunknown, fun h hlast => hraw h fun hk => hlast (congrArg Nat.succ hk)⟩

/-- With no offending element the length decides, against the sum of the fixed widths (R84, R85). -/
theorem decodeCheck_of_tags {desc : List TagCode} (htags : ∀ c ∈ desc, (Tag.ofCode c).isSome = true)
    (hraw : rawOnlyLast desc = true) (len : Nat) :
    decodeCheck desc len =
      if len < fixedSize desc then .error (.bufferTooSmallError (fixedSize desc) len) else .ok (fixedSize desc) := by
  have hscan : decodeScan 0 desc 0 = .ok (fixedSize desc) :=
    (decodeScan_ok_iff 0 desc 0 _).2 ⟨htags, hraw, (Nat.zero_add _).symm⟩
  rw [decodeCheck, hscan]

theorem decodeCheck_of_scan_error {desc : List TagCode} {e : CodecError} (h : decodeScan 0 desc 0 = .error e)
    (len : Nat) : decodeCheck desc len = .error e := by
  rw [decodeCheck, h]

/-- Settles O36: the scan reports the first offending element, else the length is tested. -/
theorem decodeReportsTheFirstFault : Obligations.DecodeReportsTheFirstFault := by
  refine fun desc len => ⟨fun k c hc hp => ?_, fun htags hraw => decodeCheck_of_tags htags hraw len⟩
  have hscan := decodeScan_fault 0 0 hc hp
  rw [Nat.zero_add] at hscan
  obtain ⟨hunknown, hraw⟩ := hscan
  exact ⟨fun h => decodeCheck_of_scan_error (hunknown h) len,
    fun h hlast => decodeCheck_of_scan_error (hraw h hlast) len⟩

/-! ## A field there and back -/

theorem leNat_injective {a b : Bytes} (hl : a.length = b.length) (h : leNat a = leNat b) : a = b := by
  rw [← leBytes_leNat a, ← leBytes_leNat b, hl, h]

/-- The integer a field's bytes stand for is congruent to their unsigned number modulo `2^(8W)`. -/
theorem integerOf_emod {t : Tag} {r : Nat} (hr : r < 2 ^ (8 * width t)) : integerOf t r % 2 ^ (8 * width t) = r := by
  have hmod : (r : Int) % 2 ^ (8 * width t) = r := Int.emod_eq_of_lt (Int.natCast_nonneg r) (by exact_mod_cast hr)
  unfold integerOf
  split
  · rw [Int.sub_emod_right, hmod]
  · exact hmod

/-- An integer in the tag's range is recovered from its residue modulo `2^(8W)` (R69, R86). -/
theorem integerOf_of_emod {t : Tag} {lo up i : Int} {r : Nat} (ht : range t = some (lo, up)) (hi : lo ≤ i ∧ i ≤ up)
    (hr : (r : Int) = i % 2 ^ (8 * width t)) : integerOf t r = i := by
  obtain ⟨hlo, hup⟩ := hi
  cases t with
  | int8 | int16 | int32 | int64 =>
    cases ht
    simp only [width] at hr
    simp only [integerOf, signed, width, true_and]
    split <;> omega
  | uint8 | uint16 | uint32 | uint64 =>
    cases ht
    exact hr.trans (Int.emod_eq_of_lt hlo (Int.lt_of_le_sub_one hup))
  | float32 | rawTail => cases ht

theorem integer_or_float32 {t : Tag} (ht : t ≠ .rawTail) : (range t).isSome = true ∨ t = .float32 := by
  cases t with
  | rawTail => exact absurd rfl ht
  | float32 => exact .inr rfl
  | _ => exact .inl rfl

theorem exists_intOf {t : Tag} {x : Value} (hx : x.cls = classOf t) (ht : (range t).isSome = true) :
    ∃ i, intOf t x = some i := by
  cases t with
  | float32 | rawTail => cases ht
  | int64 | uint64 =>
    obtain ⟨q, rfl⟩ := cls_big hx
    exact ⟨_, rfl⟩
  | _ =>
    obtain ⟨w, rfl⟩ := cls_num hx
    exact ⟨_, rfl⟩

/-- The integer a lane stands for determines the lane (R51). -/
theorem intOf_injective {i : Int} : ∀ {t : Tag} {x y : Value}, intOf t x = some i → intOf t y = some i → x = y
  | .int8, .num _, .num _, hx, hy | .int16, .num _, .num _, hx, hy | .int32, .num _, .num _, hx, hy =>
    congrArg Value.num (BitVec.toInt_inj.1 (Option.some.inj (hx.trans hy.symm)))
  | .uint8, .num _, .num _, hx, hy | .uint16, .num _, .num _, hx, hy | .uint32, .num _, .num _, hx, hy =>
    congrArg Value.num (BitVec.toNat_inj.1 (Int.ofNat.inj (Option.some.inj (hx.trans hy.symm))))
  | .int64, .big _, .big _, hx, hy =>
    congrArg Value.big (BitVec.toInt_inj.1 (Option.some.inj (hx.trans hy.symm)))
  | .uint64, .big _, .big _, hx, hy =>
    congrArg Value.big (BitVec.toNat_inj.1 (Int.ofNat.inj (Option.some.inj (hx.trans hy.symm))))

theorem leNat_leBytes_toNat {n k : Nat} (w : BitVec n) (h : 256 ^ k = 2 ^ n) : leNat (leBytes k w.toNat) = w.toNat := by
  rw [leNat_leBytes, h, Nat.mod_eq_of_lt w.isLt]

/-- The bytes of a value read from a field are the bytes read. -/
theorem fieldBytes_fieldValue {t : Tag} {b : Bytes} (ht : t ≠ .rawTail) (hb : width t ≤ b.length) :
    fieldBytes t (fieldValue t b) = b.take (width t) := by
  apply leNat_injective
  · rw [fieldBytes_length t _ (fieldValue_cls t b), fieldSize_eq_width ht, List.length_take_of_le hb]
  · obtain hr | rfl := integer_or_float32 ht
    · have h := leNat_fieldBytes (intOf_fieldValue hr b)
      rw [integerOf_emod (by rw [Nat.pow_mul]; exact leNat_take_lt b _)] at h
      exact Int.ofNat.inj h
    · refine (leNat_leBytes_toNat (k := 4) _ rfl).trans ?_
      rw [BitVec.toNat_ofNat]
      exact Nat.mod_eq_of_lt (leNat_take_lt b 4)

/-- The bytes of a value of fixed width read as the value, whatever follows them (R87, R88). -/
theorem fieldValue_fieldBytes_append {t : Tag} {x : Value} (ht : t ≠ .rawTail) (hx : x.cls = classOf t)
    (hk : canonical t x = true) (rest : Bytes) : fieldValue t (fieldBytes t x ++ rest) = x := by
  have htake : (fieldBytes t x ++ rest).take (width t) = fieldBytes t x :=
    List.take_left' ((fieldBytes_length t x hx).trans (fieldSize_eq_width ht x))
  obtain hr | rfl := integer_or_float32 ht
  · obtain ⟨i, hi⟩ := exists_intOf hx hr
    obtain ⟨⟨lo, up⟩, hrange⟩ := Option.isSome_iff_exists.1 hr
    have hval := intOf_fieldValue hr (fieldBytes t x ++ rest)
    rw [htake, integerOf_of_emod hrange ((canonical_iff hi hrange).1 hk) (leNat_fieldBytes hi)] at hval
    exact intOf_injective hval hi
  · obtain ⟨w, rfl⟩ := cls_num hx
    have hread : leNat ((fieldBytes .float32 (.num w) ++ rest).take 4) = w.toNat :=
      (congrArg leNat htake).trans (leNat_leBytes_toNat w rfl)
    exact congrArg Value.num (ofNat_leNat hread)

/-! ## The fields one after the other, there and back -/

theorem fixedSize_le_fieldsSize {desc : List TagCode} {vals : List Value} (hl : vals.length = desc.length) :
    fixedSize desc ≤ fieldsSize desc vals := by
  induction desc generalizing vals with
  | nil => exact Nat.zero_le _
  | cons c cs ih =>
    match vals, hl with
    | x :: xs, hl =>
      have hle := ih (Nat.succ.inj hl)
      cases ht : Tag.ofCode c with
      | none => simpa [fixedSize, fieldsSize, ht] using hle
      | some t =>
        have hw : width t ≤ fieldSize t x := by cases t <;> simp [fieldSize, width]
        simp only [fixedSize, fieldsSize, ht]
        omega

/-- The bytes of values that fit their fields pass the check phase of `DECODE`. -/
theorem decodable_encodedBytes {desc : List TagCode} {vals : List Value} (hl : vals.length = desc.length)
    (hfit : FieldsFit desc vals desc.length) (hraw : rawOnlyLast desc = true) :
    Decodable desc (encodedBytes desc vals) :=
  ⟨isSome_ofCode_of_fieldsFit hl hfit, hraw, (encodedBytes_length hl hfit).symm ▸ fixedSize_le_fieldsSize hl⟩

/-- Values that fit their fields are read back from their bytes. -/
theorem decodedValues_encodedBytes {desc : List TagCode} {vals : List Value} (hl : vals.length = desc.length)
    (hfit : FieldsFit desc vals desc.length) (hraw : rawOnlyLast desc = true) :
    decodedValues desc (encodedBytes desc vals) = vals := by
  induction desc generalizing vals with
  | nil => exact (List.eq_nil_of_length_eq_zero hl).symm
  | cons c cs ih =>
    match vals, hl with
    | x :: xs, hl =>
      obtain ⟨hx, hxs⟩ := fieldsFit_cons.1 hfit
      obtain ⟨t, ht, hcls, hk⟩ := fieldFits_iff.1 hx
      obtain ⟨t', ht', -, ⟨-, hraws, -⟩, hlast⟩ := decodable_cons (decodable_encodedBytes hl hfit hraw)
      obtain rfl : t = t' := Option.some.inj (ht.symm.trans ht')
      have hrest := ih (Nat.succ.inj hl) hxs hraws
      simp only [decodedValues, encodedBytes, ht]
      by_cases hr : t = .rawTail
      · obtain rfl := hlast.resolve_right (not_not_intro hr)
        obtain rfl := List.eq_nil_of_length_eq_zero (Nat.succ.inj hl)
        subst hr
        obtain ⟨b, rfl⟩ := cls_bytes hcls
        simp [encodedBytes, decodedValues, fieldBytes, fieldValue]
      · have hlen : (fieldBytes t x).length = width t := (fieldBytes_length t x hcls).trans (fieldSize_eq_width hr x)
        rw [fieldValue_fieldBytes_append hr hcls hk, List.drop_left' hlen, hrest]

/-- The values read from an input the fields use up have its bytes. -/
theorem encodedBytes_decodedValues {desc : List TagCode} {b : Bytes} (h : Decodable desc b)
    (hall : Tag.rawTail.code ∈ desc ∨ b.length = fixedSize desc) : encodedBytes desc (decodedValues desc b) = b := by
  induction desc generalizing b with
  | nil => exact (List.eq_nil_of_length_eq_zero (hall.resolve_left List.not_mem_nil)).symm
  | cons c cs ih =>
    obtain ⟨t, ht, hw, hrest, hlast⟩ := decodable_cons h
    simp only [decodedValues, encodedBytes, ht]
    by_cases hr : t = .rawTail
    · obtain rfl := hlast.resolve_right (not_not_intro hr)
      subst hr
      exact List.append_nil b
    · have hne : Tag.rawTail.code ≠ c := fun hc => hr (Option.some.inj (ht.symm.trans (hc ▸ Tag.ofCode_code .rawTail)))
      have hall' : Tag.rawTail.code ∈ cs ∨ (b.drop (width t)).length = fixedSize cs := by
        refine hall.imp (List.mem_of_ne_of_mem hne) fun hlen => ?_
        simp only [fixedSize, ht] at hlen
        rw [List.length_drop]
        omega
      rw [fieldBytes_fieldValue hr hw, ih hrest hall', List.take_append_drop]

theorem fieldsFit_decodedValues {desc : List TagCode} {b : Bytes} (h : Decodable desc b) :
    FieldsFit desc (decodedValues desc b) desc.length := by
  intro i c x hi hc hx
  obtain ⟨t, off, -, ht, hv, -⟩ := decodedValues_getElem? h hi
  obtain ⟨-, rfl⟩ := List.getElem?_eq_some_iff.1 hc
  obtain rfl := Option.some.inj (hv.symm.trans hx)
  exact fieldFits_fieldValue ht _

/-! ## The results of the two operations -/

theorem decodeResult_of_decodable {desc : List TagCode} {b : Bytes} (h : Decodable desc b) :
    decodeResult desc b = .decoded (decodedValues desc b) := by
  obtain ⟨htags, hraw, hle⟩ := h
  simp only [decodeResult, decodeCheck_of_tags htags hraw, if_neg (Nat.not_lt.2 hle)]

theorem encodeResult_of_fieldsFit {desc : List TagCode} {vals : List Value} (hl : vals.length = desc.length)
    (hfit : FieldsFit desc vals desc.length) : encodeResult desc vals = some (.encoded (encodedBytes desc vals)) := by
  have hfield : ∀ (j : Nat) c x, desc[j]? = some c → vals[j]? = some x →
      ∃ t, Tag.ofCode c = some t ∧ x.cls = classOf t ∧ canonical t x = true := fun j c x hc hx =>
    fieldFits_iff.1 (hfit j c x (List.getElem?_eq_some_iff.1 hc).1 hc hx)
  have hcheck : encodeCheck desc vals = .ok (fieldsSize desc vals) := by
    obtain ⟨-, -, hpass⟩ := encodeReportsTheFirstFault desc vals
    refine hpass hl.symm fun j c x hc hx => ?_
    obtain ⟨t, ht, hcls, -⟩ := hfield j c x hc hx
    exact ⟨t, ht, hcls⟩
  have hrange : firstOutOfRange 0 desc vals = none := by
    refine (firstOutOfRange_none_iff 0 desc vals).2 fun j c x t hc hx ht => ?_
    obtain ⟨t', ht', -, hk⟩ := hfield j c x hc hx
    obtain rfl : t' = t := Option.some.inj (ht'.symm.trans ht)
    exact hk
  simp [encodeResult, hcheck, hrange]

/-- Settles O45: field by field, the bytes of a value read as the value, and the value read has the bytes read. -/
theorem codecRoundTrip : Obligations.CodecRoundTrip := by
  refine ⟨fun desc vals b hraw henc => ?_, fun desc bytes htags hraw hsize => ?_⟩
  · obtain ⟨hcheck, hrange, rfl⟩ := encodeResult_encoded henc
    obtain ⟨hl, -, -⟩ := encodeCheck_ok hcheck
    have hfit := fieldsFit_of_encodeCheck hcheck hrange
    rw [decodeResult_of_decodable (decodable_encodedBytes hl.symm hfit hraw),
      decodedValues_encodedBytes hl.symm hfit hraw]
  · have hall : Tag.rawTail.code ∈ desc ∨ bytes.length = fixedSize desc :=
      hsize.imp (fun h => List.mem_of_getLast? h.2) And.left
    have hdec : Decodable desc bytes := ⟨htags, hraw, hsize.elim And.left fun h => Nat.le_of_eq h.1.symm⟩
    refine ⟨_, decodeResult_of_decodable hdec, ?_⟩
    rw [encodeResult_of_fieldsFit (decodedValues_length htags bytes) (fieldsFit_decodedValues hdec),
      encodedBytes_decodedValues hdec hall]

end Sys2Proof.Proofs
end

section
/-! PROOFS. The statements of the family 42_packet_demux.md: `RECV`, `SEND` and the notifications of the connection as
a whole, and the queue that empties. -/

namespace Sys2Proof.Proofs

open Sys2Proof Sys2Proof.Machine Sys2Proof.Safety

/-! ## The requests as a whole -/

/-- Settles O24: the equations of `RECV` for a message without a header and for one with. -/
theorem recvAsAWhole : Obligations.RecvAsAWhole :=
  ⟨fun _ _ hw hl => execRecv_short hw hl, fun _ _ _ _ _ hw => execRecv_header hw⟩

/-- Settles O25: the equations of `SEND` with and without a connection. -/
theorem sendForwardsOrFails : Obligations.SendForwardsOrFails :=
  ⟨fun b => decode_code (.send b), fun _ _ hw => ⟨execSend_connected hw, execSend_notConnected hw⟩⟩

/-- Settles O27: the code is that of the request, and the meaning is a write of `CONN` and one transaction. -/
theorem connectedSetsAndNotifies : Obligations.ConnectedSetsAndNotifies :=
  ⟨decode_code .connected, fun _ => rfl⟩

/-- Settles O28: `CONN` is 0 after the notification, which is the case in which `SEND` fails (R105). -/
theorem disconnectedClearsAndNotifies : Obligations.DisconnectedClearsAndNotifies := by
  refine ⟨decode_code .disconnected, fun s => ⟨rfl, fun t b h hw => ?_⟩⟩
  cases h
  exact execSend_notConnected hw rfl

/-! ## The queue -/

/-- With unbounded capacities a request always completes: it neither faults nor is refused. -/
theorem exists_next_exec_request {s : State} (hcap : s.cap = Config.Capacities.unbounded) (r : Request) :
    ∃ t, exec (instrOf r) s = .next t := by
  cases h : exec (instrOf r) s with
  | next t => exact ⟨t, rfl⟩
  | fault f => exact absurd h (exec_request_ne_fault r s f)
  | refused q => exact absurd h (exec_request_ne_refused hcap r q)

/-- An instruction of `PD` that runs with no operation and no message in progress leaves none in progress. -/
theorem idle_exec_demux {i : Instr} {s t : State} (hs : Idle s) (hi : ¬ IsMicroOp i) (h : exec i s = .next t) :
    Idle t := by
  obtain ⟨hbusy, hnone⟩ := hs
  obtain ⟨⟨hb, -⟩, -, -, -, -, -, -, hmsg⟩ := demuxFrame i s t hi h
  refine ⟨hb.trans hbusy, ?_⟩
  by_cases heq : t.msg = s.msg
  · exact heq.trans hnone
  · exact (hmsg heq).1

/-- `PD` takes the oldest request in one step and is idle again with the rest of the queue (R111). -/
theorem exists_step_request {s : State} {r : Request} {q : List Request} (hs : Idle s) (hin : s.inputs = [])
    (hcap : s.cap = Config.Capacities.unbounded) (hr : s.rq = r :: q) :
    ∃ t, step s = .next t ∧ Idle t ∧ t.inputs = [] ∧ t.cap = Config.Capacities.unbounded ∧ t.rq = q := by
  obtain ⟨t, ht⟩ := exists_next_exec_request (s := s.setRq q) hcap r
  have hi := not_isMicroOp_instrOf r
  obtain ⟨-, hrq, hinputs, htcap, -⟩ := demuxFrame _ _ t hi ht
  exact ⟨t, (step_request hs hin hr).trans ht, idle_exec_demux (s := s.setRq q) hs hi ht, hinputs.trans hin,
    htcap.trans hcap, hrq⟩

/-- Settles O52, by induction on the queue: each step takes its oldest request and the rest drains from there. -/
theorem queueDrains : Obligations.QueueDrains := by
  intro s hs hin hcap
  induction hq : s.rq generalizing s with
  | nil => exact ⟨s, steps_zero s, hq, hs⟩
  | cons r q ih =>
    obtain ⟨u, hstep, hu, huin, hucap, huq⟩ := exists_step_request hs hin hcap hq
    obtain ⟨t, hrun, hempty, ht⟩ := ih u hu huin hucap huq
    exact ⟨t, (steps_of_step q.length hstep).trans hrun, hempty, ht⟩

end Sys2Proof.Proofs
end
